-- ==== Sys2Proof/Word.lean ====
section
/-! DEFINITION. The word types of BASS-PERIPH: bytes, 16-bit addresses and 25-bit bus transactions
(00_scope.md R9, R10; 30_encoding.md R80). -/

namespace Sys2Proof

/-- A byte, an unsigned integer 0..255 (R10). -/
abbrev Byte := BitVec 8

/-- A word16, an unsigned integer 0..65535 (R10); the width of a CPU address (R9). -/
abbrev Word16 := BitVec 16

/-- A bus transaction `rw page off data` (R80). -/
abbrev BusWord := BitVec 25

end Sys2Proof
end

