-- ==== Sys2Proof/Config.lean ====
section
/-! DEFINITION. What an implementation fixes: the parameters of 00_scope.md R8 with the spec's defaults,
and the values that the spec leaves open as constants with no body (free values). -/

namespace Sys2Proof

/-- Which nibble of a colour byte is the foreground index (`FG_NIBBLE`, R8, R186). -/
inductive FgNibble where
  | low
  | high
deriving DecidableEq, Repr

/-- The parameters of R8 that have a default. A machine's parameters never change during a run (R45);
State carries them so that a statement about every state quantifies over them (DESIGN CHOICE, log entry 1). -/
structure Params where
  /-- `REG_PAGE`, the bank number of the register page. -/
  regPage : Byte
  /-- `PAL_OFF`, the palette's offset in the register page. -/
  palOff : Byte
  /-- `FG_NIBBLE`. -/
  fgNibble : FgNibble
  /-- `TIMER_BIT`, the timer's bit of `IrqR` and `IrqE`. -/
  timerBit : Fin 8
  /-- `TEXT_PTR_RESET`. -/
  textPtrReset : Byte
  /-- `COLOR_PTR_RESET`. -/
  colorPtrReset : Byte
  /-- `IRQ_VECTOR`, the address of the low byte of the interrupt vector. -/
  irqVector : Word16
  /-- `BASIC_LOAD_ADDR`. -/
  basicLoadAddr : Word16
  /-- `AUTOSTART_TOKEN`. -/
  autostartToken : Byte
  /-- `BLANK_GLYPH`, the glyph that FillOutside emits. -/
  blankGlyph : Char
  /-- `T_BOOT` in microseconds. -/
  tBoot : Nat
  /-- `T_PERIOD` in microseconds. -/
  tPeriod : Nat
  /-- `TIMER_DIV` in microseconds. -/
  timerDiv : Nat
  /-- `Q_UPDATE`; timing only (R331). -/
  qUpdate : Nat
  /-- `T_SLEEP` in microseconds; timing only (R331). -/
  tSleep : Nat
  /-- `KEYBUF_DEPTH`; `none` is unbounded. -/
  keybufDepth : Option Nat
deriving DecidableEq, Repr

/-- The defaults of R8. `irqVector`, `basicLoadAddr`, `textPtrReset` and `colorPtrReset` are marked by the
spec as general knowledge of a machine family (PRESUMED, log entry 2). -/
def Params.default : Params where
  regPage := 0xD7
  palOff := 0x80
  fgNibble := .low
  timerBit := 0
  textPtrReset := 0x04
  colorPtrReset := 0xD8
  irqVector := 0xFFFE
  basicLoadAddr := 0x0801
  autostartToken := 0x9E
  blankGlyph := ' '
  tBoot := 10000
  tPeriod := 20000
  timerDiv := 100
  qUpdate := 10000
  tSleep := 1000
  keybufDepth := none

/-- The constraints that R8 puts on single parameters: the palette lies inside the page after the 17
registers, the second vector cell exists, the timer's unit is a divisor (R10). That the reset map is valid
and disjoint is tested by `RESET` itself (R310). -/
def Params.ok (p : Params) : Bool :=
  decide (0x11 ≤ p.palOff.toNat) && decide (p.palOff.toNat ≤ 0xA0)
    && decide (p.irqVector.toNat + 1 ≤ 0xFFFF) && decide (0 < p.timerDiv)

/-! Free values. Each is a constant with no body: nothing can be proved of its value. The first argument of
those that are drawn during a run is the number of the draw (`State.freeCtr`), so that two draws are unrelated. -/

/-- `CHARSET_ROM` (R200, U12): only that it is total and pure is known. A Lean `Char` is a Unicode scalar value. -/
opaque Config.charsetRom : Byte → Char

/-- `PALETTE_RESET` (R44, U4): the palette's 96 bytes after reset. -/
opaque Config.paletteReset : Nat → Byte

/-- `VRAM_FILL` for character bytes (R156, U3): the byte created at offset `o` by draw `n`. -/
opaque Config.chrFill : (n o : Nat) → Byte

/-- `VRAM_FILL` for colour bytes (R156, U3): the byte created at offset `o` by draw `n`. -/
opaque Config.colFill : (n o : Nat) → Byte

/-- The byte that a read of `Control` returns (R125, U1), drawn afresh at each read. -/
opaque Config.controlRead : Nat → Byte

/-- The byte that a read of `CFillOut` returns (R126, U2), drawn afresh at each read. -/
opaque Config.cFillOutRead : Nat → Byte

/-- Plain memory at an address that left a mapped range at draw `n` (R159, U8). -/
opaque Config.memLeft : (n a : Nat) → Byte

/-- `WinX` after a reset on a console narrower than 40 columns (R310, U13). -/
opaque Config.winXReset : Nat → Byte

/-- `WinY` after a reset on a console shorter than 25 rows (R310, U13). -/
opaque Config.winYReset : Nat → Byte

/-- `next_update` between reset and `START` (R44, U22). -/
opaque Config.nextUpdateReset : Nat → Nat

/-- The bus accesses of a CPU instruction of which State holds nothing (R225: what the instruction does is
outside the scope). -/
opaque Config.cpuAccesses : Nat → List BusWord

/-- `Q_RUN`, the blocking drive's quantum (R8, U11). -/
opaque Config.qRun : Nat

end Sys2Proof
end

