-- ==== Sys2Proof/Syntax.lean ====
section
/-! DEFINITION. The 50 operations of the block, one constructor per row of spec/opcode_table.json (30_encoding.md
R84), and what a decoder works on: transactions and events as they are issued, the address map, the regions. -/

namespace Sys2Proof

/-- An operation of the block (R3, R84). `v` is a written byte, `i` a palette index, `o` a VideoRAM offset,
`off` an unknown register's offset (R85, R86). Read operations have no operand but their address. -/
inductive Instr where
  -- reads of the register page (40_registerfile.md R110 to R128)
  | rdWinX
  | rdWinY
  | rdWinW
  | rdWinH
  | rdTextPtr
  | rdColorPtr
  | rdCharset
  | rdFreq
  | rdIrqE
  | rdIrqR
  | rdKeys
  | rdTimerLo
  | rdTimerHi
  | rdRealW
  | rdRealH
  | rdControl
  | rdCFillOut
  | rdUnknown (off : Byte)
  | rdPal (i : Nat)
  -- writes of the register page (R130 to R148)
  | wrWinX (v : Byte)
  | wrWinY (v : Byte)
  | wrWinW (v : Byte)
  | wrWinH (v : Byte)
  | wrTextPtr (v : Byte)
  | wrColorPtr (v : Byte)
  | wrCharset (v : Byte)
  | wrFreq (v : Byte)
  | wrIrqE (v : Byte)
  | wrPal (i : Nat) (v : Byte)
  | wrIrqR (v : Byte)
  | wrKeys (v : Byte)
  | wrTimerLo (v : Byte)
  | wrTimerHi (v : Byte)
  | wrRealW (v : Byte)
  | wrRealH (v : Byte)
  | wrControl (v : Byte)
  | wrCFillOut (v : Byte)
  | wrUnknown (off : Byte) (v : Byte)
  -- VideoRAM (42_videoram_renderer.md R170 to R173)
  | rdText (o : Nat)
  | rdColor (o : Nat)
  | wrText (o : Nat) (v : Byte)
  | wrColor (o : Nat) (v : Byte)
  -- host commands, scheduler and environment events (R81)
  | reset (w h : Nat)
  | load (addr : Word16) (bytes : List Byte)
  | start (entry : Word16)
  | tick
  | key (b : Byte)
  | advance (dt : Nat)
  | resize (w h : Nat)
  | cpuStep
deriving DecidableEq, Repr

/-- An operation as an agent issues it: a bus transaction (format `BUS`, R80) or an event code followed by its
operands (format `EVT`, R81). R81 gives the operands' order and range and no layout in bits: each is a natural
number here, `LOAD`'s address first and then its bytes (DESIGN CHOICE, log entry 5). -/
inductive Packet where
  | bus (w : BusWord)
  | evt (code : Byte) (operands : List Nat)
deriving DecidableEq, Repr

/-- What decoding a bus address depends on: two parameters, two registers and the size of VideoRAM (R82). -/
structure AddrMap where
  regPage : Byte
  palOff : Byte
  textPtr : Byte
  colorPtr : Byte
  size : Nat
deriving DecidableEq, Repr

/-- What an address decodes to (41_bus_adapter.md R150). -/
inductive Region where
  | reg (off : Byte)
  | text (o : Nat)
  | color (o : Nat)
  | none
deriving DecidableEq, Repr

/-- What a packet decodes to: an operation of the block, an access to plain memory (R70), or nothing. -/
inductive Decoded where
  | op (i : Instr)
  /-- A bus read at an address outside all three ranges (R70). -/
  | plainRead (a : Word16)
  /-- A bus write at an address outside all three ranges (R70). -/
  | plainWrite (a : Word16) (v : Byte)
  /-- An event code that R81 does not list. -/
  | unknownEvent (code : Byte)
  /-- A listed event code whose operands are not those R81 lists. -/
  | badOperands (code : Byte)
deriving DecidableEq, Repr

end Sys2Proof
end

