-- ==== Sys2Proof/WellFormed.lean ====
section
/-! DEFINITION. Which operations an encoding can give (30_encoding.md R85, R88), under an address map. -/

namespace Sys2Proof

/-- An operation's operands are in the ranges of R85 and R88: a palette index below 96, an unknown offset
neither named nor in the palette, a VideoRAM offset below the size. Operands of events are in range by their
types; R81's `1..255` for a console size is a condition on the operation's meaning (R31, R227, R310). -/
def Instr.wf (m : AddrMap) : Instr → Bool
  | .rdPal i => decide (i < 96)
  | .wrPal i _ => decide (i < 96)
  | .rdUnknown off =>
    decide (0x10 < off.toNat) && !(decide (m.palOff.toNat ≤ off.toNat) && decide (off.toNat ≤ m.palOff.toNat + 95))
  | .wrUnknown off _ =>
    decide (0x10 < off.toNat) && !(decide (m.palOff.toNat ≤ off.toNat) && decide (off.toNat ≤ m.palOff.toNat + 95))
  | .rdText o => decide (o < m.size)
  | .rdColor o => decide (o < m.size)
  | .wrText o _ => decide (o < m.size)
  | .wrColor o _ => decide (o < m.size)
  | .rdWinX | .rdWinY | .rdWinW | .rdWinH | .rdTextPtr | .rdColorPtr | .rdCharset | .rdFreq => true
  | .rdIrqE | .rdIrqR | .rdKeys | .rdTimerLo | .rdTimerHi | .rdRealW | .rdRealH => true
  | .rdControl | .rdCFillOut => true
  | .wrWinX _ | .wrWinY _ | .wrWinW _ | .wrWinH _ | .wrTextPtr _ | .wrColorPtr _ | .wrCharset _ => true
  | .wrFreq _ | .wrIrqE _ | .wrIrqR _ | .wrKeys _ | .wrTimerLo _ | .wrTimerHi _ | .wrRealW _ => true
  | .wrRealH _ | .wrControl _ | .wrCFillOut _ => true
  | .reset _ _ | .load _ _ | .start _ | .tick | .key _ | .advance _ | .resize _ _ | .cpuStep => true

end Sys2Proof
end

