-- ==== Sys2Proof/Decode.lean ====
section
/-! DEFINITION. Decoding bus transactions and events (30_encoding.md R80 to R91, 41_bus_adapter.md R150 to R158), and
the encoder. -/

namespace Sys2Proof

/-! ### The address map (41_bus_adapter.md) -/

/-- The base of the text range, `x[TextPtr] * 256` (R85). -/
def AddrMap.textBase (m : AddrMap) : Nat := m.textPtr.toNat * 256

/-- The base of the colour range, `x[ColorPtr] * 256` (R85). -/
def AddrMap.colorBase (m : AddrMap) : Nat := m.colorPtr.toNat * 256

/-- `REG_BASE = REG_PAGE * 256` (R8). -/
def AddrMap.regBase (m : AddrMap) : Nat := m.regPage.toNat * 256

/-- `MapValid` (R157): both RAM ranges end inside the address space. -/
def AddrMap.valid (m : AddrMap) : Bool :=
  decide (m.textBase + m.size ≤ 65536) && decide (m.colorBase + m.size ≤ 65536)

/-- Two ranges share no address; an empty range is disjoint from everything (R158). -/
def rangesApart (base₁ len₁ base₂ len₂ : Nat) : Bool :=
  decide (len₁ = 0) || decide (len₂ = 0) || decide (base₁ + len₁ ≤ base₂) || decide (base₂ + len₂ ≤ base₁)

/-- `MapDisjoint` (R158): register page, text range and colour range are pairwise disjoint. -/
def AddrMap.disjoint (m : AddrMap) : Bool :=
  rangesApart m.textBase m.size m.colorBase m.size && rangesApart m.regBase 256 m.textBase m.size
    && rangesApart m.regBase 256 m.colorBase m.size

/-- `Decode(addr)` (R150), the three tests in its order. -/
def decodeAddr (m : AddrMap) (a : Word16) : Region :=
  if a.extractLsb' 8 8 = m.regPage then .reg (a.extractLsb' 0 8)
  else if m.textBase ≤ a.toNat ∧ a.toNat < m.textBase + m.size then .text (a.toNat - m.textBase)
  else if m.colorBase ≤ a.toNat ∧ a.toNat < m.colorBase + m.size then .color (a.toNat - m.colorBase)
  else .none

/-! ### Bus transactions -/

/-- Field `rw` of a transaction, bit 24: true is a write (R80). -/
def BusWord.isWrite (w : BusWord) : Bool := w.getLsbD 24

/-- The 16-bit address `page, off`, bits 23 to 8 (R80). -/
def BusWord.addr (w : BusWord) : Word16 := w.extractLsb' 8 16

/-- Field `data`, bits 7 to 0 (R80). -/
def BusWord.data (w : BusWord) : Byte := w.extractLsb' 0 8

/-- The transaction `rw << 24 | addr << 8 | data` (R80). -/
def busWord (rw : Bool) (addr : Word16) (data : Byte) : BusWord := BitVec.ofBool rw ++ addr ++ data

/-- An offset of the palette, `PAL_OFF <= off <= PAL_OFF + 95` (R82). -/
def AddrMap.inPalette (m : AddrMap) (off : Byte) : Bool :=
  decide (m.palOff.toNat ≤ off.toNat) && decide (off.toNat ≤ m.palOff.toNat + 95)

/-- A read of the register page (R82, R83): a named register, else a palette byte, else unknown. -/
def decodeRegRead (m : AddrMap) (off : Byte) : Instr :=
  match off.toNat with
  | 0x00 => .rdWinX
  | 0x01 => .rdWinY
  | 0x02 => .rdWinW
  | 0x03 => .rdWinH
  | 0x04 => .rdTextPtr
  | 0x05 => .rdColorPtr
  | 0x06 => .rdCharset
  | 0x07 => .rdFreq
  | 0x08 => .rdIrqE
  | 0x09 => .rdIrqR
  | 0x0A => .rdKeys
  | 0x0B => .rdTimerLo
  | 0x0C => .rdTimerHi
  | 0x0D => .rdRealW
  | 0x0E => .rdRealH
  | 0x0F => .rdControl
  | 0x10 => .rdCFillOut
  | _ => if m.inPalette off then .rdPal (off.toNat - m.palOff.toNat) else .rdUnknown off

/-- A write of the register page (R82, R83). -/
def decodeRegWrite (m : AddrMap) (off v : Byte) : Instr :=
  match off.toNat with
  | 0x00 => .wrWinX v
  | 0x01 => .wrWinY v
  | 0x02 => .wrWinW v
  | 0x03 => .wrWinH v
  | 0x04 => .wrTextPtr v
  | 0x05 => .wrColorPtr v
  | 0x06 => .wrCharset v
  | 0x07 => .wrFreq v
  | 0x08 => .wrIrqE v
  | 0x09 => .wrIrqR v
  | 0x0A => .wrKeys v
  | 0x0B => .wrTimerLo v
  | 0x0C => .wrTimerHi v
  | 0x0D => .wrRealW v
  | 0x0E => .wrRealH v
  | 0x0F => .wrControl v
  | 0x10 => .wrCFillOut v
  | _ => if m.inPalette off then .wrPal (off.toNat - m.palOff.toNat) v else .wrUnknown off v

/-- A bus transaction (R82): the region by the address alone, then the operation by `rw`. Every word decodes
(R91). A read ignores its data field (R80). -/
def decodeBus (m : AddrMap) (w : BusWord) : Decoded :=
  match decodeAddr m w.addr, w.isWrite with
  | .reg off, false => .op (decodeRegRead m off)
  | .reg off, true => .op (decodeRegWrite m off w.data)
  | .text o, false => .op (.rdText o)
  | .text o, true => .op (.wrText o w.data)
  | .color o, false => .op (.rdColor o)
  | .color o, true => .op (.wrColor o w.data)
  | .none, false => .plainRead w.addr
  | .none, true => .plainWrite w.addr w.data

/-! ### Events -/

/-- A natural that is a byte. -/
def isByte (n : Nat) : Bool := decide (n < 256)

/-- An event (R81). Codes above 0x07 are not listed; operands must be those listed for the code. -/
def decodeEvt (code : Byte) (ops : List Nat) : Decoded :=
  match code.toNat, ops with
  | 0x00, [w, h] => .op (.reset w h)
  | 0x01, a :: bs =>
    if a < 65536 ∧ bs.all isByte = true then .op (.load (BitVec.ofNat 16 a) (bs.map (BitVec.ofNat 8)))
    else .badOperands code
  | 0x02, [e] => if e < 65536 then .op (.start (BitVec.ofNat 16 e)) else .badOperands code
  | 0x03, [] => .op .tick
  | 0x04, [b] => if b < 256 then .op (.key (BitVec.ofNat 8 b)) else .badOperands code
  | 0x05, [dt] => .op (.advance dt)
  | 0x06, [w, h] => .op (.resize w h)
  | 0x07, [] => .op .cpuStep
  | n, _ => if n ≤ 0x07 then .badOperands code else .unknownEvent code

/-- A packet under an address map: total, refusing by name. -/
def decodePacket (m : AddrMap) : Packet → Decoded
  | .bus w => decodeBus m w
  | .evt code ops => decodeEvt code ops

/-! ### Encoding -/

/-- A read transaction of register offset `off`; its data field, which is ignored, is 0. -/
def encodeRegRead (m : AddrMap) (off : Byte) : Packet := .bus (busWord false (m.regPage ++ off) 0)

/-- A write transaction of register offset `off`. -/
def encodeRegWrite (m : AddrMap) (off v : Byte) : Packet := .bus (busWord true (m.regPage ++ off) v)

/-- The palette offset of index `i`, `PAL_OFF + i` (R85). -/
def palOffset (m : AddrMap) (i : Nat) : Byte := BitVec.ofNat 8 (m.palOff.toNat + i)

/-- The address of text offset `o`, `base*256 + o` (R151). -/
def textAddr (m : AddrMap) (o : Nat) : Word16 := BitVec.ofNat 16 (m.textBase + o)

/-- The address of colour offset `o` (R151). -/
def colorAddr (m : AddrMap) (o : Nat) : Word16 := BitVec.ofNat 16 (m.colorBase + o)

/-- The packet of an operation under an address map (R80, R81, R83, R85). -/
def encode (m : AddrMap) : Instr → Packet
  | .rdWinX => encodeRegRead m 0x00
  | .rdWinY => encodeRegRead m 0x01
  | .rdWinW => encodeRegRead m 0x02
  | .rdWinH => encodeRegRead m 0x03
  | .rdTextPtr => encodeRegRead m 0x04
  | .rdColorPtr => encodeRegRead m 0x05
  | .rdCharset => encodeRegRead m 0x06
  | .rdFreq => encodeRegRead m 0x07
  | .rdIrqE => encodeRegRead m 0x08
  | .rdIrqR => encodeRegRead m 0x09
  | .rdKeys => encodeRegRead m 0x0A
  | .rdTimerLo => encodeRegRead m 0x0B
  | .rdTimerHi => encodeRegRead m 0x0C
  | .rdRealW => encodeRegRead m 0x0D
  | .rdRealH => encodeRegRead m 0x0E
  | .rdControl => encodeRegRead m 0x0F
  | .rdCFillOut => encodeRegRead m 0x10
  | .rdUnknown off => encodeRegRead m off
  | .rdPal i => encodeRegRead m (palOffset m i)
  | .wrWinX v => encodeRegWrite m 0x00 v
  | .wrWinY v => encodeRegWrite m 0x01 v
  | .wrWinW v => encodeRegWrite m 0x02 v
  | .wrWinH v => encodeRegWrite m 0x03 v
  | .wrTextPtr v => encodeRegWrite m 0x04 v
  | .wrColorPtr v => encodeRegWrite m 0x05 v
  | .wrCharset v => encodeRegWrite m 0x06 v
  | .wrFreq v => encodeRegWrite m 0x07 v
  | .wrIrqE v => encodeRegWrite m 0x08 v
  | .wrPal i v => encodeRegWrite m (palOffset m i) v
  | .wrIrqR v => encodeRegWrite m 0x09 v
  | .wrKeys v => encodeRegWrite m 0x0A v
  | .wrTimerLo v => encodeRegWrite m 0x0B v
  | .wrTimerHi v => encodeRegWrite m 0x0C v
  | .wrRealW v => encodeRegWrite m 0x0D v
  | .wrRealH v => encodeRegWrite m 0x0E v
  | .wrControl v => encodeRegWrite m 0x0F v
  | .wrCFillOut v => encodeRegWrite m 0x10 v
  | .wrUnknown off v => encodeRegWrite m off v
  | .rdText o => .bus (busWord false (textAddr m o) 0)
  | .rdColor o => .bus (busWord false (colorAddr m o) 0)
  | .wrText o v => .bus (busWord true (textAddr m o) v)
  | .wrColor o v => .bus (busWord true (colorAddr m o) v)
  | .reset w h => .evt 0x00 [w, h]
  | .load a bs => .evt 0x01 (a.toNat :: bs.map BitVec.toNat)
  | .start e => .evt 0x02 [e.toNat]
  | .tick => .evt 0x03 []
  | .key b => .evt 0x04 [b.toNat]
  | .advance dt => .evt 0x05 [dt]
  | .resize w h => .evt 0x06 [w, h]
  | .cpuStep => .evt 0x07 []

/-! ### The host's words -/

/-- The address map right after reset with the default parameters (20_memory.md R52). -/
def AddrMap.afterReset : AddrMap where
  regPage := Params.default.regPage
  palOff := Params.default.palOff
  textPtr := Params.default.textPtrReset
  colorPtr := Params.default.colorPtrReset
  size := 1024

/-- How many operands an event has when each is a zero; `LOAD` then has an address and no byte. -/
def zeroOperands (code : Byte) : List Nat :=
  match code.toNat with
  | 0x00 | 0x06 => [0, 0]
  | 0x01 | 0x02 | 0x04 | 0x05 => [0]
  | _ => []

/-- The packet that the table's word `w` of `nbits` bits stands for: the table's event rows have 8 bits, its
bus rows 25, in 4 bytes. Operands that the table gives no bits are zeros. -/
def packetOfWord (nbits w : Nat) : Packet :=
  if nbits ≤ 8 then .evt (BitVec.ofNat 8 w) (zeroOperands (BitVec.ofNat 8 w)) else .bus (BitVec.ofNat 25 w)

/-- A number that has no bit outside its format. -/
def fitsFormat (nbits w : Nat) : Bool := if nbits ≤ 8 then decide (w < 256) else decide (w < 2 ^ 25)

/-- The operation that the decoder reads from the table's word, under the map after reset (log entry 27); none
for a transaction that is not the block's and for an event code that R81 does not list. -/
def decodeTableWord (nbits w : Nat) : Option Instr :=
  if fitsFormat nbits w then
    match decodePacket AddrMap.afterReset (packetOfWord nbits w) with
    | .op i => some i
    | .plainRead _ | .plainWrite _ _ | .unknownEvent _ | .badOperands _ => none
  else none

end Sys2Proof
end

