-- ==== Sys2Proof/Machine/State.lean ====
section
/-! DEFINITION. The machine's state as plain data (10_state.md), the reasons a step can stop, and the state right
after reset. -/

namespace Sys2Proof.Machine

/-- The 17 registers of R21, in the order of their ids. -/
inductive RegId where
  | winX | winY | winW | winH | textPtr | colorPtr | charset | freq | irqE | irqR
  | keys | timerLo | timerHi | realW | realH | control | cFillOut
deriving DecidableEq, Repr

/-- The stored registers `x[NAME]` (R21, R22). `Keys`, `TimerLo`, `TimerHi`, `RealW`, `RealH` and `Control` have no
storage byte. -/
structure Regs where
  winX : Byte
  winY : Byte
  winW : Byte
  winH : Byte
  textPtr : Byte
  colorPtr : Byte
  charset : Byte
  freq : Byte
  irqE : Byte
  irqR : Byte
  /-- The write-only fill colour latch (R21, R147). -/
  cFillOut : Byte
deriving DecidableEq, Repr

/-- A colour as the ordered triple of its palette bytes (R187); the block does not interpret it (R257). -/
structure Color where
  chan0 : Byte
  chan1 : Byte
  chan2 : Byte
deriving DecidableEq, Repr

/-- A console command (R13, R256 to R259). -/
inductive ConCmd where
  | setCursor (x y : Nat)
  | setColor (fg bg : Color)
  | put (glyph : Char)
  | flush
deriving DecidableEq, Repr

/-- The scheduler's states (R34, R210). -/
inductive Sched where
  | stopped
  | running
  | halted
deriving DecidableEq, Repr

/-- The kinds of configuration error (R282): one. -/
inductive CfgKind where
  /-- Code 1: a RAM range would pass the top of the address space. -/
  | windowTooLarge
deriving DecidableEq, Repr

/-- What a configuration error records (R282). -/
structure CfgErr where
  kind : CfgKind
  reg : RegId
  value : Byte
deriving DecidableEq, Repr

/-- A run of plain addresses that left a mapped range at free draw `gen` (R159, U8). -/
structure LeftRange where
  base : Nat
  len : Nat
  gen : Nat
deriving DecidableEq, Repr

/-- The CPU core's plain memory (R41): the bytes written, by strictly rising address, and the runs of addresses
that left a mapped range, newest first. What an unlisted address reads as is `Memory.unlisted`. -/
structure Memory where
  cells : List Host.Cell
  left : List LeftRange
deriving DecidableEq, Repr

/-- The state of the block, of what surrounds it as far as the rules read or write it, and five fields of the
model's own (`par`, `rdOut`, `inbox`, `cpuq`, `freeCtr`). -/
structure State where
  /-- MODEL's own: the parameters of R8, never changed by a step (log entry 1). -/
  par : Params
  /-- The stored registers (R21, R22). -/
  x : Regs
  /-- The palette, 96 bytes (R23, R24). -/
  pal : Vector Byte 96
  /-- VideoRAM's character bytes, `size` of them (R25, R26). -/
  chr : List Byte
  /-- VideoRAM's colour bytes, `size` of them (R25, R26). -/
  col : List Byte
  /-- The cached terminal width (R30). -/
  crw : Nat
  /-- The cached terminal height (R30). -/
  crh : Nat
  /-- The emulation start timestamp, microseconds (R33). -/
  startT : Nat
  /-- The next deadline, microseconds (R33). -/
  nextUpdate : Nat
  /-- The scheduler's state (R34). -/
  sched : Sched
  /-- The halt flag (R35). -/
  haltReq : Bool
  /-- The configuration error: the bit and what was recorded with it (R36, R282). -/
  cfgErr : Option CfgErr
  /-- The auto-start address that the Loader cached (R38). -/
  autostart : Option Word16
  /-- The console command trace, oldest first (R39). -/
  conOut : List ConCmd
  /-- The targets of the interrupt events, oldest first (R40). -/
  irqOut : List Word16
  /-- Environment: the console's live width (R31). -/
  cw : Nat
  /-- Environment: the console's live height (R31). -/
  ch : Nat
  /-- Environment: wall-clock time in microseconds (R32). -/
  now : Nat
  /-- Environment: the console's pending keys, oldest first (R37). -/
  keyq : List Byte
  /-- The CPU core's plain memory (R41). -/
  mem : Memory
  /-- The program counter last given to the CPU core by `START` (R13, R42; log entry 8). -/
  pc : Word16
  /-- MODEL's own: the bytes that bus reads have returned to the CPU core, oldest first (R12; log entry 7). -/
  rdOut : List Byte
  /-- MODEL's own: the operations still to be performed, in their order (R62, R65; log entry 4). -/
  inbox : List Packet
  /-- MODEL's own: the bus accesses of the CPU core's next instructions (R225; log entry 6). -/
  cpuq : List (List BusWord)
  /-- MODEL's own: the number of free draws made so far (log entry 22). -/
  freeCtr : Nat
deriving DecidableEq, Repr

/-- Why the machine stops with a fault. The block itself raises no fault that stops it (R280, R281). -/
inductive Fault where
  /-- Raised by `TICK` and `CPUSTEP` outside their enabling conditions (R214, R225): the spec gives no step there.
  Safe: the model has no next state where the machine has none. -/
  | notEnabled (event : String)
  /-- Raised by an operation whose operand is one that no encoding gives: a palette index above 95, a VideoRAM
  offset beyond the arrays (R28). Safe: the decoder gives no such operation in a state that meets the invariant. -/
  | illFormed
deriving DecidableEq, Repr

/-- Why the model refuses to give a next state. The first seven are the closed list of R284, situations to which
the source gives no meaning (R283); all are safe. -/
inductive Refusal where
  /-- Two of the three ranges would share an address (R158): geometry writes, `RESET`. Safe. -/
  | overlappingRanges
  /-- The console reports a size outside 1..255 (R31): reads of RealW and RealH, the tick body, `RESET`. Safe. -/
  | consoleDims
  /-- A vector cell lies in a mapped range when an interrupt is raised (R222). Safe. -/
  | vectorMapped
  /-- `START` outside `Stopped` (R212). Safe. -/
  | startNotStopped
  /-- `LOAD` past the top of the address space (R250). Safe. -/
  | loadWraps
  /-- The parsed auto-start decimal exceeds 65535 (R252). Safe. -/
  | autostartRange
  /-- The reset registers fail `MapValid` (R310). Safe. -/
  | resetMapInvalid
  /-- Raised by the step on an event code that R81 does not list. Safe. -/
  | unknownEvent (code : Byte)
  /-- Raised by the step on operands that R81 does not give the event. Safe. -/
  | badOperands (code : Byte)
  /-- Raised by exec on an operation that has no meaning in the model yet. Safe. -/
  | notModelled (mnemonic : String)
deriving DecidableEq, Repr

/-- What a meaning answers. -/
abbrev Result := Host.Outcome State Fault Refusal

/-- The machine after `RESET 80, 30` at time 0 with the default parameters (10_state.md R44, 95_test_vectors.md),
nothing pending and nothing in plain memory. The console's size, the time, the empty queues and `pc` are DESIGN
CHOICES (log entries 3, 4, 6, 7, 8, 9). -/
def State.reset : State where
  par := Params.default
  x :=
    { winX := 20, winY := 2, winW := 40, winH := 25
      textPtr := Params.default.textPtrReset, colorPtr := Params.default.colorPtrReset
      charset := 0, freq := 0, irqE := 0, irqR := 0, cFillOut := 0 }
  pal := ⟨((List.range 96).map Config.paletteReset).toArray, by simp⟩
  chr := (List.range 1024).map (Config.chrFill 0)
  col := (List.range 1024).map (Config.colFill 0)
  crw := 80
  crh := 30
  startT := 0
  nextUpdate := Config.nextUpdateReset 0
  sched := .stopped
  haltReq := false
  cfgErr := none
  autostart := none
  conOut := []
  irqOut := []
  cw := 80
  ch := 30
  now := 0
  keyq := []
  mem := { cells := [], left := [] }
  pc := 0
  rdOut := []
  inbox := []
  cpuq := []
  freeCtr := 1

end Sys2Proof.Machine
end

