-- ==== Sys2Proof/Machine/Operands.lean ====
section
/-! DEFINITION. What the operations compute from registers, palette, clock and images: sizes and maps (10_state.md R26,
41_bus_adapter.md), the timer count (R103), the toroidal transform (R175, R183), the palette indexer (R186 to R188),
the glyph (R200) and the auto-start number (R251, R252). -/

namespace Sys2Proof.Machine

/-! ### Register file -/

/-- `x' = x with x'[NAME] = v` (R102); an id without a storage byte stores nothing (R22). -/
def Regs.set (r : RegId) (v : Byte) (x : Regs) : Regs :=
  match r with
  | .winX => { x with winX := v }
  | .winY => { x with winY := v }
  | .winW => { x with winW := v }
  | .winH => { x with winH := v }
  | .textPtr => { x with textPtr := v }
  | .colorPtr => { x with colorPtr := v }
  | .charset => { x with charset := v }
  | .freq => { x with freq := v }
  | .irqE => { x with irqE := v }
  | .irqR => { x with irqR := v }
  | .cFillOut => { x with cFillOut := v }
  | .keys | .timerLo | .timerHi | .realW | .realH | .control => x

/-! ### Sizes and maps -/

/-- `ceil_div(a, b) = (a + b - 1) div b` (R10). -/
def ceilDiv (a b : Nat) : Nat := (a + b - 1) / b

/-- `size`, VideoRAM's length (R26); the product is formed without wrap. -/
def ramSize (x : Regs) : Nat := ceilDiv (x.winW.toNat * x.winH.toNat) 256 * 256

/-- `banks = size div 256` (R26). -/
def ramBanks (x : Regs) : Nat := ramSize x / 256

/-- The address map that a register file gives (R45, R152). -/
def mapOf (p : Params) (x : Regs) : AddrMap where
  regPage := p.regPage
  palOff := p.palOff
  textPtr := x.textPtr
  colorPtr := x.colorPtr
  size := ramSize x

/-- VideoRAM's length in a state. -/
def State.size (s : State) : Nat := ramSize s.x

/-- The address map in force (R45, R155). -/
def State.map (s : State) : AddrMap := mapOf s.par s.x

/-- `Decode(addr)` in a state (R150). -/
def State.decode (s : State) (a : Word16) : Region := decodeAddr s.map a

/-! ### Timer and console size -/

/-- `TimerCount()` (R103). -/
def timerCount (s : State) : Word16 := BitVec.ofNat 16 ((s.now - s.startT) / s.par.timerDiv)

/-- Bits 7:0 of the timer count (R121). -/
def timerLo (s : State) : Byte := (timerCount s).extractLsb' 0 8

/-- Bits 15:8 of the timer count (R122). -/
def timerHi (s : State) : Byte := (timerCount s).extractLsb' 8 8

/-- A console dimension that R31 admits. -/
def dimOk (n : Nat) : Bool := decide (1 ≤ n) && decide (n ≤ 255)

/-! ### The toroidal transform -/

/-- `Coord(o)` (R175), with the cached extent (R184); sums on naturals, reduced last. -/
def coord (s : State) (o : Nat) : Nat × Nat :=
  ((o % s.x.winW.toNat + s.x.winX.toNat) % s.crw, (o / s.x.winW.toNat + s.x.winY.toNat) % s.crh)

/-- `InWindow(cx, cy)` in the closed form of R183. -/
def inWindow (s : State) (cx cy : Nat) : Bool :=
  decide ((cx + s.crw - s.x.winX.toNat % s.crw) % s.crw < s.x.winW.toNat)
    && decide ((cy + s.crh - s.x.winY.toNat % s.crh) % s.crh < s.x.winH.toNat)

/-! ### The palette indexer and the translator -/

/-- `Nibbles(k)`: foreground and background index of a colour byte (R186). -/
def nibbles (fg : FgNibble) (k : Byte) : BitVec 4 × BitVec 4 :=
  match fg with
  | .low => (k.extractLsb' 0 4, k.extractLsb' 4 4)
  | .high => (k.extractLsb' 4 4, k.extractLsb' 0 4)

/-- The palette's byte index `set*48 + idx*3 + chan` (R24). -/
def palIndex (set : Fin 2) (idx : BitVec 4) (chan : Fin 3) : Fin 96 :=
  ⟨set.val * 48 + idx.toNat * 3 + chan.val, by have := idx.isLt; omega⟩

/-- `PalColor(set, idx)` (R187). -/
def palColor (pal : Vector Byte 96) (set : Fin 2) (idx : BitVec 4) : Color where
  chan0 := pal.get (palIndex set idx 0)
  chan1 := pal.get (palIndex set idx 1)
  chan2 := pal.get (palIndex set idx 2)

/-- `Translate(b)` (R200): the table's glyph for the whole byte, bit 7 included (R201), whatever `Charset` holds
(R202). -/
def translate (b : Byte) : Char := Config.charsetRom b

/-- The two indices a cell is drawn with: exchanged when bit 7 of the character is set (R179). -/
def cellIndices (fg : FgNibble) (c k : Byte) : BitVec 4 × BitVec 4 :=
  if c.getLsbD 7 then (nibbles fg k).swap else nibbles fg k

/-! ### The auto-start number -/

/-- An ASCII digit `0x30..0x39` (R252). -/
def isDigit (b : Byte) : Bool := decide (0x30 ≤ b.toNat) && decide (b.toNat ≤ 0x39)

/-- The decimal value of the longest run of digits that the list starts with, added to `acc` (R252). -/
def digitRun : (acc : Nat) → List Byte → Nat
  | acc, [] => acc
  | acc, b :: bs => if isDigit b then digitRun (acc * 10 + (b.toNat - 0x30)) bs else acc

/-- `ParseDecimal` (R252) on the bytes from index `j` on: none for an empty run. The value is not yet limited to
16 bits. -/
def parseDecimal : List Byte → Option Nat
  | [] => none
  | b :: bs => if isDigit b then some (digitRun 0 (b :: bs)) else none

/-- The bytes after the first auto-start token, which must stand among the first `window` bytes (R251, R253). -/
def afterToken (token : Byte) : (window : Nat) → List Byte → Option (List Byte)
  | 0, _ => none
  | _ + 1, [] => none
  | n + 1, b :: bs => if b = token then some bs else afterToken token n bs

/-- `ScanAutostart` (R251): token in the first 12 bytes, spaces skipped, then the decimal. -/
def scanAutostart (token : Byte) (bytes : List Byte) : Option Nat :=
  (afterToken token 12 bytes).bind fun rest => parseDecimal (rest.dropWhile fun b => decide (b = 0x20))

/-- Where `START entry` sends the CPU core (R213). -/
def startTarget (s : State) (entry : Word16) : Word16 :=
  if entry = s.par.basicLoadAddr then s.autostart.getD entry else entry

end Sys2Proof.Machine
end

