-- ==== Sys2Proof/Machine/Flags.lean ====
section
/-! DEFINITION. The block's flags (10_state.md R43): the bits of `IrqR` and `IrqE`, set by DoUpdate (R216), toggled by a
write (R140). `halt_req` and `cfg_err` are set by the shared operations of Ops.lean. -/

namespace Sys2Proof.Machine

/-- `TIMER_MASK = 1 << TIMER_BIT` (R8). -/
def timerMask (p : Params) : Byte := 1#8 <<< p.timerBit.val

/-- The timer bit of `IrqR` before the update (`was` of R216). -/
def timerFlag (p : Params) (x : Regs) : Bool := decide (x.irqR &&& timerMask p ≠ 0)

/-- The timer bit of `IrqE` (R216, R285). -/
def timerEnabled (p : Params) (x : Regs) : Bool := decide (x.irqE &&& timerMask p ≠ 0)

/-- The only condition that raises an interrupt: a 0 to 1 edge of the timer bit while it is enabled (R217). -/
def timerEdge (p : Params) (x : Regs) : Bool := !timerFlag p x && timerEnabled p x

/-- DoUpdate's setting of the timer bit, enabled or not (R216). -/
def latchTimer (p : Params) (x : Regs) : Regs := { x with irqR := x.irqR ||| timerMask p }

/-- The write of `IrqR`: XOR, one indivisible step (R67, R140). -/
def toggleIrqR (v : Byte) (x : Regs) : Regs := { x with irqR := x.irqR ^^^ v }

end Sys2Proof.Machine
end

