-- ==== Sys2Proof/Machine/Ops.lean ====
section
/-! DEFINITION. The shared operations: sequencing, plain memory (R41, R70, R159), the remap and the configuration
error (R102, R154 to R158, R281), drawing (R178, R182), raising the interrupt (R216, R222, R289), the tick body (R215)
and the halt (R223). The block takes no exception itself and has no return from one (R280, R291). -/

namespace Sys2Proof.Machine

/-! ### Sequencing -/

/-- The first operation, then the second in the state it leaves; a fault or a refusal of the first ends both. -/
def andThen {α β : Type} (r : Host.Outcome α Fault Refusal) (f : α → Host.Outcome β Fault Refusal) :
    Host.Outcome β Fault Refusal :=
  match r with
  | .next s => f s
  | .fault e => .fault e
  | .refused e => .refused e

/-! ### Plain memory -/

/-- Address `a` lies in a run of addresses that left a mapped range. -/
def LeftRange.covers (a : Nat) (r : LeftRange) : Bool := decide (r.base ≤ a) && decide (a < r.base + r.len)

/-- What an unlisted address reads as: the free value of the latest departure that covers it (R159, U8), else 0
(DESIGN CHOICE, log entry 9). -/
def Memory.unlisted (m : Memory) (a : Nat) : Byte :=
  match m.left.find? (LeftRange.covers a) with
  | some r => Config.memLeft r.gen a
  | none => 0

/-- The byte listed for address `a`. -/
def lookupCell (a : Nat) : List Host.Cell → Option Byte
  | [] => none
  | c :: cs => if c.1 = a then some c.2 else lookupCell a cs

/-- `CpuMem(addr)`: the byte of plain memory at an address (R12). -/
def Memory.read (m : Memory) (a : Nat) : Byte := (lookupCell a m.cells).getD (m.unlisted a)

/-- List byte `v` at address `a`, keeping the addresses in rising order. -/
def insertCell (a : Nat) (v : Byte) : List Host.Cell → List Host.Cell
  | [] => [(a, v)]
  | c :: cs =>
    if a < c.1 then (a, v) :: c :: cs
    else if c.1 = a then (a, v) :: cs
    else c :: insertCell a v cs

/-- Unlist address `a`. -/
def eraseCell (a : Nat) (cells : List Host.Cell) : List Host.Cell := cells.filter fun c => decide (c.1 ≠ a)

/-- Unlisted, `a` reads as 0 for certain (no departure covers it). -/
def Memory.plainZero (m : Memory) (a : Nat) : Bool := (m.left.find? (LeftRange.covers a)).isNone

/-- Store a byte in plain memory; a byte that the address reads as unlisted is unlisted. -/
def Memory.write (m : Memory) (a : Nat) (v : Byte) : Memory :=
  if v = 0 ∧ m.plainZero a = true then { m with cells := eraseCell a m.cells }
  else { m with cells := insertCell a v m.cells }

/-- The plain bytes of a range that leaves the map become unknown (R159, U8): unlisted, and free from draw `gen` on. -/
def Memory.leave (m : Memory) (base len gen : Nat) : Memory where
  cells := m.cells.filter fun c => !(LeftRange.covers c.1 ⟨base, len, gen⟩)
  left := ⟨base, len, gen⟩ :: m.left

/-- The canonical form: addresses strictly rising and below 65536, no listed byte that the address reads as
unlisted. -/
def Memory.wf (m : Memory) : Bool :=
  decide ((m.cells.map Prod.fst).Pairwise (· < ·)) && m.cells.all (fun c => decide (c.1 < 65536))
    && m.cells.all (fun c => !(decide (c.2 = 0) && m.plainZero c.1))

/-! ### Output -/

/-- `emit`: append console commands to the trace (R13). -/
def emit (cs : List ConCmd) (s : State) : State := { s with conOut := s.conOut ++ cs }

/-- A bus read returns one byte to the CPU core (R12, R80). -/
def giveByte (v : Byte) (s : State) : State := { s with rdOut := s.rdOut ++ [v] }

/-- The next free draw has another number. -/
def State.drawn (s : State) : State := { s with freeCtr := s.freeCtr + 1 }

/-! ### Remap and configuration error -/

/-- An array in its new length: the common beginning kept, created bytes filled (R154, R156). -/
def resizeArray (l : List Byte) (n : Nat) (fill : Nat → Byte) : List Byte :=
  l.take n ++ (List.range' l.length (n - l.length)).map fill

/-- The plain bytes under a RAM range become unknown when the range is installed elsewhere or in another size. -/
def leaveIf (moved : Bool) (base len gen : Nat) (m : Memory) : Memory :=
  if moved = true ∧ len ≠ 0 then m.leave base len gen else m

/-- Plain memory across a change of map (R159, U8; log entry 10): the old text range, then the old colour range. -/
def leaveMap (old new : AddrMap) (gen : Nat) (m : Memory) : Memory :=
  leaveIf (decide (old.colorPtr ≠ new.colorPtr ∨ old.size ≠ new.size)) old.colorBase old.size gen
    (leaveIf (decide (old.textPtr ≠ new.textPtr ∨ old.size ≠ new.size)) old.textBase old.size gen m)

/-- `Remap` with the register write before it, in one step (R102, R154, R155): the register file, both arrays in
the new size, plain memory where a range left. Nothing is drawn (R161). -/
def remap (x' : Regs) (s : State) : State :=
  { s with
    x := x'
    chr := resizeArray s.chr (ramSize x') (Config.chrFill s.freeCtr)
    col := resizeArray s.col (ramSize x') (Config.colFill s.freeCtr)
    mem := leaveMap s.map (mapOf s.par x') s.freeCtr s.mem
    freeCtr := s.freeCtr + 1 }

/-- `raise ConfigError(kind)` (R14, R281): the sticky flag and what was recorded; nothing else changes. -/
def raiseConfigError (k : CfgKind) (r : RegId) (v : Byte) (s : State) : State :=
  { s with cfgErr := some { kind := k, reg := r, value := v } }

/-- `GeomWrite(NAME, v)` (R102): validity first, then disjointness (R288). -/
def geomWrite (r : RegId) (v : Byte) (s : State) : Result :=
  if (mapOf s.par (s.x.set r v)).valid = true then
    if (mapOf s.par (s.x.set r v)).disjoint = true then .next (remap (s.x.set r v) s)
    else .refused .overlappingRanges
  else .next (raiseConfigError .windowTooLarge r v s)

/-- A write that just stores (R136 to R138). -/
def storeReg (r : RegId) (v : Byte) (s : State) : State := { s with x := s.x.set r v }

/-! ### Drawing -/

/-- The three commands of `DrawCell(o)` for character `c` and colour `k` (R178). -/
def cellCmds (s : State) (o : Nat) (c k : Byte) : List ConCmd :=
  [.setCursor (coord s o).1 (coord s o).2,
   .setColor (palColor s.pal 0 (cellIndices s.par.fgNibble c k).1) (palColor s.pal 1 (cellIndices s.par.fgNibble c k).2),
   .put (translate c)]

/-- `DrawCell(o)` (R178) of a stored cell; an offset beyond the arrays, which no decoded access has (R28), draws
nothing. -/
def drawCell (o : Nat) (s : State) : State :=
  match s.chr[o]?, s.col[o]? with
  | some c, some k => emit (cellCmds s o c k) s
  | _, _ => s

/-- Offset `o` has a byte in both arrays (R25, R28). -/
def inRam (s : State) (o : Nat) : Bool := decide (o < s.chr.length) && decide (o < s.col.length)

/-- The geometry is configured: neither dimension is 0 (R174). -/
def windowSet (s : State) : Bool := decide (s.x.winW ≠ 0) && decide (s.x.winH ≠ 0)

/-- One cell of `FillOutside` (R182). -/
def fillCell (s : State) (v : Byte) (cx cy : Nat) : List ConCmd :=
  if inWindow s cx cy then []
  else
    [.setCursor cx cy,
     .setColor (palColor s.pal 1 (v.extractLsb' 0 4)) (palColor s.pal 1 (v.extractLsb' 0 4)),
     .put s.par.blankGlyph]

/-- The commands of `FillOutside(v)`: rows top to bottom, columns left to right (R182, R189). -/
def fillCmds (s : State) (v : Byte) : List ConCmd :=
  (List.range s.crh).flatMap fun cy => (List.range s.crw).flatMap fun cx => fillCell s v cx cy

/-- `FillOutside(v)` (R182). -/
def fillOutside (v : Byte) (s : State) : State := emit (fillCmds s v) s

/-! ### Raising the interrupt -/

/-- `VectorTarget()` (R222): none when a vector cell is mapped; else the handler's address, low byte first (R54). -/
def vectorTarget (s : State) : Option Word16 :=
  if s.decode s.par.irqVector = .none ∧ s.decode (s.par.irqVector + 1) = .none then
    some (s.mem.read (s.par.irqVector + 1).toNat ++ s.mem.read s.par.irqVector.toNat)
  else none

/-- Entry to the interrupt as far as the block performs it (R289): read the vector, raise `Irq(target)`. It saves
nothing, masks nothing and does not clear its flag; the core's part is not in the spec (R290). -/
def raiseIrq (s : State) : Result :=
  match vectorTarget s with
  | some t => .next { s with irqOut := s.irqOut ++ [t] }
  | none => .refused .vectorMapped

/-- `DoUpdate()` (R216): flush, latch the timer bit, raise on an enabled edge. The edge is tested on the register
file before the latch. -/
def doUpdate (s : State) : Result :=
  if timerEdge s.par s.x = true then raiseIrq { emit [.flush] s with x := latchTimer s.par s.x }
  else .next { emit [.flush] s with x := latchTimer s.par s.x }

/-- The refresh of the cached extent (R215, R31). -/
def refreshExtent (s : State) : Result :=
  if dimOk s.cw = true ∧ dimOk s.ch = true then .next { s with crw := s.cw, crh := s.ch } else .refused .consoleDims

/-- `TickBody()` (R215). -/
def tickBody (s : State) : Result := andThen (doUpdate s) refreshExtent

/-! ### Halt -/

/-- `Halt()` (R223): the sticky flag; when running, the final flush and the terminal state. -/
def halt (s : State) : State :=
  if s.sched = .running then { emit [.flush] s with haltReq := true, sched := .halted }
  else { s with haltReq := true }

end Sys2Proof.Machine
end

