-- ==== Sys2Proof/Machine/RegisterReads.lean ====
section
/-! DEFINITION. The reads of the register page (40_registerfile.md R101, R110 to R128). -/

namespace Sys2Proof.Machine

/-- `RD.WINX`: a plain read (R101, R110). -/
def execRdWinX (s : State) : Result := .next (giveByte s.x.winX s)

/-- `RD.WINY`: a plain read (R101, R111). -/
def execRdWinY (s : State) : Result := .next (giveByte s.x.winY s)

/-- `RD.WINW`: a plain read (R101, R112). -/
def execRdWinW (s : State) : Result := .next (giveByte s.x.winW s)

/-- `RD.WINH`: a plain read (R101, R113). -/
def execRdWinH (s : State) : Result := .next (giveByte s.x.winH s)

/-- `RD.TEXTPTR`: a plain read (R101, R114). -/
def execRdTextPtr (s : State) : Result := .next (giveByte s.x.textPtr s)

/-- `RD.COLORPTR`: a plain read (R101, R115). -/
def execRdColorPtr (s : State) : Result := .next (giveByte s.x.colorPtr s)

/-- `RD.CHARSET`: a plain read (R101, R116). -/
def execRdCharset (s : State) : Result := .next (giveByte s.x.charset s)

/-- `RD.FREQ`: a plain read (R101, R117). -/
def execRdFreq (s : State) : Result := .next (giveByte s.x.freq s)

/-- `RD.IRQE`: a plain read (R101, R118). -/
def execRdIrqE (s : State) : Result := .next (giveByte s.x.irqE s)

/-- `RD.IRQR`: a plain read (R101, R119). -/
def execRdIrqR (s : State) : Result := .next (giveByte s.x.irqR s)

/-- `RD.KEYS` (R120): drains one key, oldest first; 0 when there is none. -/
def execRdKeys (s : State) : Result :=
  match s.keyq with
  | [] => .next (giveByte 0 s)
  | b :: rest => .next (giveByte b { s with keyq := rest })

/-- `RD.TIMERLO` (R121): the clock is sampled at this access, nothing is latched. -/
def execRdTimerLo (s : State) : Result := .next (giveByte (timerLo s) s)

/-- `RD.TIMERHI` (R122). -/
def execRdTimerHi (s : State) : Result := .next (giveByte (timerHi s) s)

/-- `RD.REALW` (R123): the live width, not the cached one. -/
def execRdRealW (s : State) : Result :=
  if dimOk s.cw = true then .next (giveByte (BitVec.ofNat 8 s.cw) s) else .refused .consoleDims

/-- `RD.REALH` (R124). -/
def execRdRealH (s : State) : Result :=
  if dimOk s.ch = true then .next (giveByte (BitVec.ofNat 8 s.ch) s) else .refused .consoleDims

/-- `RD.CONTROL` (R125, U1): any byte, drawn afresh; no side effect. -/
def execRdControl (s : State) : Result := .next (giveByte (Config.controlRead s.freeCtr) s.drawn)

/-- `RD.CFILLOUT` (R126, U2): any byte, drawn afresh; the latch is not disclosed. -/
def execRdCFillOut (s : State) : Result := .next (giveByte (Config.cFillOutRead s.freeCtr) s.drawn)

/-- `RD.UNKNOWN` (R88, R127): reads as 0, whatever the offset. -/
def execRdUnknown (_off : Byte) (s : State) : Result := .next (giveByte 0 s)

/-- `RD.PAL` (R128). -/
def execRdPal (i : Nat) (s : State) : Result :=
  match s.pal[i]? with
  | some v => .next (giveByte v s)
  | none => .fault .illFormed

end Sys2Proof.Machine
end

