-- ==== Sys2Proof/Machine/RegisterWrites.lean ====
section
/-! DEFINITION. The writes of the register page (40_registerfile.md R102, R130 to R148). -/

namespace Sys2Proof.Machine

/-- `WR.WINX` (R130): a geometry write. -/
def execWrWinX (v : Byte) (s : State) : Result := geomWrite .winX v s

/-- `WR.WINY` (R131): a geometry write. -/
def execWrWinY (v : Byte) (s : State) : Result := geomWrite .winY v s

/-- `WR.WINW` (R132): a geometry write. -/
def execWrWinW (v : Byte) (s : State) : Result := geomWrite .winW v s

/-- `WR.WINH` (R133): a geometry write. -/
def execWrWinH (v : Byte) (s : State) : Result := geomWrite .winH v s

/-- `WR.TEXTPTR` (R134): a geometry write. -/
def execWrTextPtr (v : Byte) (s : State) : Result := geomWrite .textPtr v s

/-- `WR.COLORPTR` (R135): a geometry write. -/
def execWrColorPtr (v : Byte) (s : State) : Result := geomWrite .colorPtr v s

/-- `WR.CHARSET` (R136): stored, read by nothing but its read. -/
def execWrCharset (v : Byte) (s : State) : Result := .next (storeReg .charset v s)

/-- `WR.FREQ` (R137): stored, no effect on the period (R234). -/
def execWrFreq (v : Byte) (s : State) : Result := .next (storeReg .freq v s)

/-- `WR.IRQE` (R138): a late enable raises nothing. -/
def execWrIrqE (v : Byte) (s : State) : Result := .next (storeReg .irqE v s)

/-- `WR.PAL` (R139): stores one palette byte; nothing is redrawn. -/
def execWrPal (i : Nat) (v : Byte) (s : State) : Result :=
  if h : i < 96 then .next { s with pal := s.pal.set i v h } else .fault .illFormed

/-- `WR.IRQR` (R140): XOR; raises nothing. -/
def execWrIrqR (v : Byte) (s : State) : Result := .next { s with x := toggleIrqR v s.x }

/-- `WR.KEYS` (R141): a write to a read-only register is ignored (R90). -/
def execWrKeys (_v : Byte) (s : State) : Result := .next s

/-- `WR.TIMERLO` (R142): a write to a read-only register is ignored (R90). -/
def execWrTimerLo (_v : Byte) (s : State) : Result := .next s

/-- `WR.TIMERHI` (R143): a write to a read-only register is ignored (R90). -/
def execWrTimerHi (_v : Byte) (s : State) : Result := .next s

/-- `WR.REALW` (R144): a write to a read-only register is ignored (R90). -/
def execWrRealW (_v : Byte) (s : State) : Result := .next s

/-- `WR.REALH` (R145): a write to a read-only register is ignored (R90). -/
def execWrRealH (_v : Byte) (s : State) : Result := .next s

/-- `WR.CONTROL` (R146): bit 1 forces a tick body, then bit 0 halts; nothing is stored, bits 7:2 are ignored. In
`Halted`, where a byte of LOAD can still make this write, R221 runs the tick body 'in any scheduler state' and R224
says 'no interrupt': the model follows R221 and raises on an enabled edge (DESIGN CHOICE, log entry 34). -/
def execWrControl (v : Byte) (s : State) : Result :=
  andThen (if v.getLsbD 1 = true then tickBody s else .next s) fun t =>
    .next (if v.getLsbD 0 = true then halt t else t)

/-- `WR.CFILLOUT` (R147): the latch, then the paint. -/
def execWrCFillOut (v : Byte) (s : State) : Result := .next (fillOutside v (storeReg .cFillOut v s))

/-- `WR.UNKNOWN` (R88, R148): ignored. -/
def execWrUnknown (_off _v : Byte) (s : State) : Result := .next s

end Sys2Proof.Machine
end

