-- ==== Sys2Proof/Machine/VideoRam.lean ====
section
/-! DEFINITION. The four VideoRAM operations (42_videoram_renderer.md R170 to R174, R180, R181). -/

namespace Sys2Proof.Machine

/-- `RD.TEXT` (R172): the stored byte, no draw. -/
def execRdText (o : Nat) (s : State) : Result :=
  match s.chr[o]? with
  | some v => .next (giveByte v s)
  | none => .fault .illFormed

/-- `RD.COLOR` (R173): the stored byte, never the swapped one (R180). -/
def execRdColor (o : Nat) (s : State) : Result :=
  match s.col[o]? with
  | some v => .next (giveByte v s)
  | none => .fault .illFormed

/-- `WR.TEXT` (R170): dropped while a window dimension is 0 (R174); else stored and drawn at once (R181). -/
def execWrText (o : Nat) (v : Byte) (s : State) : Result :=
  if windowSet s = true then
    if inRam s o = true then .next (drawCell o { s with chr := s.chr.set o v }) else .fault .illFormed
  else .next s

/-- `WR.COLOR` (R171): as `WR.TEXT`, with the stored character's bit 7. -/
def execWrColor (o : Nat) (v : Byte) (s : State) : Result :=
  if windowSet s = true then
    if inRam s o = true then .next (drawCell o { s with col := s.col.set o v }) else .fault .illFormed
  else .next s

end Sys2Proof.Machine
end

