-- ==== Sys2Proof/Machine/Bus.lean ====
section
/-! DEFINITION. Bus transactions as `LOAD` and `CPUSTEP` make them: dispatch of a decoded access (41_bus_adapter.md R153)
and accesses to plain memory (20_memory.md R70). -/

namespace Sys2Proof.Machine

/-- A bus operation (R100, R153). Events are no bus operations; no transaction decodes to one. -/
def execBus (i : Instr) (s : State) : Result :=
  match i with
  | .rdWinX => execRdWinX s
  | .rdWinY => execRdWinY s
  | .rdWinW => execRdWinW s
  | .rdWinH => execRdWinH s
  | .rdTextPtr => execRdTextPtr s
  | .rdColorPtr => execRdColorPtr s
  | .rdCharset => execRdCharset s
  | .rdFreq => execRdFreq s
  | .rdIrqE => execRdIrqE s
  | .rdIrqR => execRdIrqR s
  | .rdKeys => execRdKeys s
  | .rdTimerLo => execRdTimerLo s
  | .rdTimerHi => execRdTimerHi s
  | .rdRealW => execRdRealW s
  | .rdRealH => execRdRealH s
  | .rdControl => execRdControl s
  | .rdCFillOut => execRdCFillOut s
  | .rdUnknown off => execRdUnknown off s
  | .rdPal i => execRdPal i s
  | .wrWinX v => execWrWinX v s
  | .wrWinY v => execWrWinY v s
  | .wrWinW v => execWrWinW v s
  | .wrWinH v => execWrWinH v s
  | .wrTextPtr v => execWrTextPtr v s
  | .wrColorPtr v => execWrColorPtr v s
  | .wrCharset v => execWrCharset v s
  | .wrFreq v => execWrFreq v s
  | .wrIrqE v => execWrIrqE v s
  | .wrPal i v => execWrPal i v s
  | .wrIrqR v => execWrIrqR v s
  | .wrKeys v => execWrKeys v s
  | .wrTimerLo v => execWrTimerLo v s
  | .wrTimerHi v => execWrTimerHi v s
  | .wrRealW v => execWrRealW v s
  | .wrRealH v => execWrRealH v s
  | .wrControl v => execWrControl v s
  | .wrCFillOut v => execWrCFillOut v s
  | .wrUnknown off v => execWrUnknown off v s
  | .rdText o => execRdText o s
  | .rdColor o => execRdColor o s
  | .wrText o v => execWrText o v s
  | .wrColor o v => execWrColor o v s
  | .reset _ _ | .load _ _ | .start _ | .tick | .key _ | .advance _ | .resize _ _ | .cpuStep => .fault .illFormed

/-- A bus read outside all three ranges (R70): plain memory's byte goes to the CPU core. -/
def plainRead (a : Word16) (s : State) : State := giveByte (s.mem.read a.toNat) s

/-- A bus write outside all three ranges (R70): plain memory only. -/
def plainWrite (a : Word16) (v : Byte) (s : State) : State := { s with mem := s.mem.write a.toNat v }

/-- What a decoded bus transaction does, `bus` performing the block's operations. -/
def runDecoded (bus : Instr → State → Result) (d : Decoded) (s : State) : Result :=
  match d with
  | .op i => bus i s
  | .plainRead a => .next (plainRead a s)
  | .plainWrite a v => .next (plainWrite a v s)
  | .unknownEvent c => .refused (.unknownEvent c)
  | .badOperands c => .refused (.badOperands c)

/-- One bus transaction, decoded with the mapping in force (R82, R155). -/
def busAccess (w : BusWord) (s : State) : Result := runDecoded execBus (decodeBus s.map w) s

/-- Bus transactions one after the other, each decoded when its turn comes (R62). -/
def busAccesses : List BusWord → State → Result
  | [], s => .next s
  | w :: ws, s => andThen (busAccess w s) (busAccesses ws)

/-- The next pending operation and the state without it (R62, R65); none when nothing is pending. -/
def nextPacket (s : State) : Option (Packet × State) :=
  match s.inbox with
  | [] => none
  | p :: rest => some (p, { s with inbox := rest })

end Sys2Proof.Machine
end

