-- ==== Sys2Proof/Machine/Loader.lean ====
section
/-! DEFINITION. The loader and the keyboard (45_loader_host.md R250 to R254, R260). -/

namespace Sys2Proof.Machine

/-- The image's bytes at ascending addresses from `a`, each one bus write decoded with the mapping in force when
its turn comes: plain memory where no range answers (R57, R250). Nothing comes between two of them (DESIGN CHOICE, log
entry 35). -/
def loadBytes : (a : Nat) → List Byte → State → Result
  | _, [], s => .next s
  | a, b :: bs, s => andThen (busAccess (busWord true (BitVec.ofNat 16 a) b) s) (loadBytes (a + 1) bs)

/-- The auto-start cache after an image: overwritten, also with none, at the canonical address only; a number
above 65535 is refused (R250 to R252). -/
def cacheAutostart (addr : Word16) (bytes : List Byte) (s : State) : Result :=
  if addr = s.par.basicLoadAddr then
    match scanAutostart s.par.autostartToken bytes with
    | none => .next { s with autostart := none }
    | some n => if n ≤ 65535 then .next { s with autostart := some (BitVec.ofNat 16 n) } else .refused .autostartRange
  else .next s

/-- `LOAD` (R250), allowed in every scheduler state. -/
def execLoad (addr : Word16) (bytes : List Byte) (s : State) : Result :=
  if addr.toNat + bytes.length ≤ 65536 then andThen (loadBytes addr.toNat bytes s) (cacheAutostart addr bytes)
  else .refused .loadWraps

/-- The key buffer takes another key (R260): always when unbounded. -/
def keyRoom (s : State) : Bool :=
  match s.par.keybufDepth with
  | none => true
  | some d => decide (s.keyq.length < d)

/-- `KEY` (R260): the console buffers the key; on a full buffer it is dropped (U10). -/
def execKey (b : Byte) (s : State) : Result :=
  .next (if keyRoom s = true then { s with keyq := s.keyq ++ [b] } else s)

end Sys2Proof.Machine
end

