-- ==== Sys2Proof/Machine/Reset.lean ====
section
/-! DEFINITION. `RESET` (70_reset_and_hazards.md R310, 10_state.md R44). -/

namespace Sys2Proof.Machine

/-- The window's centred column (R310); a free value on a console narrower than the window (U13). -/
def resetWinX (w n : Nat) : Byte := if 40 ≤ w then BitVec.ofNat 8 ((w - 40) / 2) else Config.winXReset n

/-- The window's centred row (R310); a free value on a console shorter than the window (U13). -/
def resetWinY (h n : Nat) : Byte := if 25 ≤ h then BitVec.ofNat 8 ((h - 25) / 2) else Config.winYReset n

/-- The registers after `RESET w, h` (R310), free values from draw `n`. -/
def resetRegs (p : Params) (w h n : Nat) : Regs where
  winX := resetWinX w n
  winY := resetWinY h n
  winW := 40
  winH := 25
  textPtr := p.textPtrReset
  colorPtr := p.colorPtrReset
  charset := 0
  freq := 0
  irqE := 0
  irqR := 0
  cFillOut := 0

/-- The palette after reset, `PALETTE_RESET` (R44, U4). -/
def paletteAtReset : Vector Byte 96 := ⟨((List.range 96).map Config.paletteReset).toArray, by simp⟩

/-- An array of `n` created bytes (R44, U3). -/
def freshArray (n : Nat) (fill : Nat → Byte) : List Byte := (List.range n).map fill

/-- The state after `RESET w, h` (R310). The keys, the clock, plain memory, the CPU core and what is pending belong
to others and stay (log entry 26); plain memory where the old ranges were is unknown (R159, log entry 10). -/
def resetState (w h : Nat) (s : State) : State :=
  let x' := resetRegs s.par w h s.freeCtr
  { s with
    cw := w, ch := h, crw := w, crh := h
    x := x'
    pal := paletteAtReset
    chr := freshArray (ramSize x') (Config.chrFill s.freeCtr)
    col := freshArray (ramSize x') (Config.colFill s.freeCtr)
    startT := s.now
    nextUpdate := Config.nextUpdateReset s.freeCtr
    sched := .stopped
    haltReq := false
    cfgErr := none
    autostart := none
    conOut := []
    irqOut := []
    mem := leaveMap s.map (mapOf s.par x') s.freeCtr s.mem
    freeCtr := s.freeCtr + 1 }

/-- `RESET` (R310): the console's size first, then the parameters' map. -/
def execReset (w h : Nat) (s : State) : Result :=
  if dimOk w = true ∧ dimOk h = true then
    if (mapOf s.par (resetRegs s.par w h s.freeCtr)).valid = true then
      if (mapOf s.par (resetRegs s.par w h s.freeCtr)).disjoint = true then .next (resetState w h s)
      else .refused .overlappingRanges
    else .refused .resetMapInvalid
  else .refused .consoleDims

end Sys2Proof.Machine
end

