-- ==== Sys2Proof/Machine/Scheduler.lean ====
section
/-! DEFINITION. The scheduler's operations and the environment's (44_scheduler.md R210 to R227). -/

namespace Sys2Proof.Machine

/-- `START` before a pending halt is looked at (R212): the window is framed with the latched colour, the CPU core
gets its program counter, the timer restarts, the first deadline is set. -/
def started (entry : Word16) (s : State) : State :=
  { fillOutside s.x.cFillOut s with
    pc := startTarget s entry
    startT := s.now
    nextUpdate := s.now + s.par.tBoot
    sched := .running }

/-- `START` (R212): from Stopped only; a halt requested before it takes effect at once. -/
def execStart (entry : Word16) (s : State) : Result :=
  if s.sched = .stopped then .next (if s.haltReq = true then halt (started entry s) else started entry s)
  else .refused .startNotStopped

/-- The enabling condition of `TICK` (R214). -/
def tickEnabled (s : State) : Bool := decide (s.sched = .running) && decide (s.nextUpdate ≤ s.now)

/-- `TICK` (R214): the deadline advances by the period from its old value (R232), then the tick body. -/
def execTick (s : State) : Result :=
  if tickEnabled s = true then tickBody { s with nextUpdate := s.nextUpdate + s.par.tPeriod }
  else .fault (.notEnabled "TICK")

/-- `ADVANCE` (R226): time passes, in every scheduler state. -/
def execAdvance (dt : Nat) (s : State) : Result := .next { s with now := s.now + dt }

/-- `RESIZE` (R227): the console changes; the block is not told. -/
def execResize (w h : Nat) (s : State) : Result := .next { s with cw := w, ch := h }

/-- The bus accesses of the CPU core's next instruction and the state without them: those State holds, else a free
draw (R225: what the instruction does is outside the scope; log entry 6). -/
def nextAccesses (s : State) : List BusWord × State :=
  match s.cpuq with
  | [] => (Config.cpuAccesses s.freeCtr, s.drawn)
  | ws :: rest => (ws, { s with cpuq := rest })

/-- `CPUSTEP` (R225): the CPU core executes one instruction of its own; its bus accesses are performed in program
order. Enabled in Running only. Whether time, a key or a resize may come between two accesses of one step is open (R63,
R65): here nothing does (DESIGN CHOICE, log entry 35). -/
def execCpuStep (s : State) : Result :=
  if s.sched = .running then busAccesses (nextAccesses s).1 (nextAccesses s).2
  else .fault (.notEnabled "CPUSTEP")

end Sys2Proof.Machine
end

