-- ==== Sys2Proof/Machine/Dispatch.lean ====
section
/-! DEFINITION. The dispatch of an operation to its meaning, one arm per row of spec/opcode_table.json. -/

namespace Sys2Proof.Machine

def exec (i : Instr) (s : State) : Host.Outcome State Fault Refusal :=
  match i with
  | .rdWinX => Sys2Proof.Machine.execRdWinX s
  | .rdWinY => Sys2Proof.Machine.execRdWinY s
  | .rdWinW => Sys2Proof.Machine.execRdWinW s
  | .rdWinH => Sys2Proof.Machine.execRdWinH s
  | .rdTextPtr => Sys2Proof.Machine.execRdTextPtr s
  | .rdColorPtr => Sys2Proof.Machine.execRdColorPtr s
  | .rdCharset => Sys2Proof.Machine.execRdCharset s
  | .rdFreq => Sys2Proof.Machine.execRdFreq s
  | .rdIrqE => Sys2Proof.Machine.execRdIrqE s
  | .rdIrqR => Sys2Proof.Machine.execRdIrqR s
  | .rdKeys => Sys2Proof.Machine.execRdKeys s
  | .rdTimerLo => Sys2Proof.Machine.execRdTimerLo s
  | .rdTimerHi => Sys2Proof.Machine.execRdTimerHi s
  | .rdRealW => Sys2Proof.Machine.execRdRealW s
  | .rdRealH => Sys2Proof.Machine.execRdRealH s
  | .rdControl => Sys2Proof.Machine.execRdControl s
  | .rdCFillOut => Sys2Proof.Machine.execRdCFillOut s
  | .rdUnknown off => Sys2Proof.Machine.execRdUnknown off s
  | .rdPal k => Sys2Proof.Machine.execRdPal k s
  | .wrWinX v => Sys2Proof.Machine.execWrWinX v s
  | .wrWinY v => Sys2Proof.Machine.execWrWinY v s
  | .wrWinW v => Sys2Proof.Machine.execWrWinW v s
  | .wrWinH v => Sys2Proof.Machine.execWrWinH v s
  | .wrTextPtr v => Sys2Proof.Machine.execWrTextPtr v s
  | .wrColorPtr v => Sys2Proof.Machine.execWrColorPtr v s
  | .wrCharset v => Sys2Proof.Machine.execWrCharset v s
  | .wrFreq v => Sys2Proof.Machine.execWrFreq v s
  | .wrIrqE v => Sys2Proof.Machine.execWrIrqE v s
  | .wrPal k v => Sys2Proof.Machine.execWrPal k v s
  | .wrIrqR v => Sys2Proof.Machine.execWrIrqR v s
  | .wrKeys v => Sys2Proof.Machine.execWrKeys v s
  | .wrTimerLo v => Sys2Proof.Machine.execWrTimerLo v s
  | .wrTimerHi v => Sys2Proof.Machine.execWrTimerHi v s
  | .wrRealW v => Sys2Proof.Machine.execWrRealW v s
  | .wrRealH v => Sys2Proof.Machine.execWrRealH v s
  | .wrControl v => Sys2Proof.Machine.execWrControl v s
  | .wrCFillOut v => Sys2Proof.Machine.execWrCFillOut v s
  | .wrUnknown off v => Sys2Proof.Machine.execWrUnknown off v s
  | .rdText o => Sys2Proof.Machine.execRdText o s
  | .rdColor o => Sys2Proof.Machine.execRdColor o s
  | .wrText o v => Sys2Proof.Machine.execWrText o v s
  | .wrColor o v => Sys2Proof.Machine.execWrColor o v s
  | .reset w h => Sys2Proof.Machine.execReset w h s
  | .load addr bytes => Sys2Proof.Machine.execLoad addr bytes s
  | .start entry => Sys2Proof.Machine.execStart entry s
  | .tick => Sys2Proof.Machine.execTick s
  | .key b => Sys2Proof.Machine.execKey b s
  | .advance dt => Sys2Proof.Machine.execAdvance dt s
  | .resize w h => Sys2Proof.Machine.execResize w h s
  | .cpuStep => Sys2Proof.Machine.execCpuStep s

end Sys2Proof.Machine
end

