-- ==== Sys2Proof/Machine/Step.lean ====
section
/-! DEFINITION. One step: the next pending operation is taken, decoded with the mapping in force and performed
(20_memory.md R62, R63). -/

namespace Sys2Proof.Machine

/-- One step. With nothing pending the machine waits and nothing changes (R300; log entry 4). A transaction outside
all three ranges goes to plain memory (R70). -/
def step (s : State) : Host.Outcome State Fault Refusal :=
  match nextPacket s with
  | none => .next s
  | some (p, t) => runDecoded exec (decodePacket t.map p) t

/-- `s` with the table's word `w` of `nbits` bits as its next pending operation. -/
def State.withFetchWord (s : State) (nbits w : Nat) : State := { s with inbox := packetOfWord nbits w :: s.inbox }

end Sys2Proof.Machine
end

