-- ==== Sys2Proof/Machine/Drives.lean ====
section
/-! DEFINITION. The host's two drives as schedules of the machine's operations (44_scheduler.md R228 to R231), with what
they report to the host, and what the environment does meanwhile (R65, R269). -/

namespace Sys2Proof.Machine

/-- The status output `halted` (R231). -/
def State.halted (s : State) : Bool := decide (s.sched = .halted)

/-- What the environment may do between any two operations (R65, R269): time passes, a key is pressed, the console
is resized. -/
inductive EnvEvent where
  | advance (dt : Nat)
  | key (b : Byte)
  | resize (w h : Nat)
deriving DecidableEq, Repr

/-- The operation that an event of the environment is (R226, R227, R260). -/
def envInstr : EnvEvent → Instr
  | .advance dt => .advance dt
  | .key b => .key b
  | .resize w h => .resize w h

/-- Events of the environment one after the other. -/
def environment : List EnvEvent → State → Result
  | [], s => .next s
  | v :: vs, s => andThen (exec (envInstr v) s) (environment vs)

/-- The time that passes in a row of events. -/
def elapsed : List EnvEvent → Nat
  | [] => 0
  | .advance dt :: vs => dt + elapsed vs
  | .key _ :: vs | .resize _ _ :: vs => elapsed vs

/-- The same events, in no more than `limit` of time. -/
def within : (limit : Nat) → List EnvEvent → List EnvEvent
  | _, [] => []
  | limit, .advance dt :: vs => .advance (min dt limit) :: within (limit - dt) vs
  | limit, .key b :: vs => .key b :: within limit vs
  | limit, .resize w h :: vs => .resize w h :: within limit vs

/-- How a call of `execute` goes, as far as the CPU core and the environment decide it: `units` has an entry for each
unit that the core has to run (none for an idle core), what the environment does before that unit; `rest` is what it
does after the last unit and before the clock test. Between any two operations of a drive the environment thus does
anything (R65, R269). That this is an argument is a DESIGN CHOICE (log entry 29). -/
structure Quantum where
  units : List (List EnvEvent)
  rest : List EnvEvent
deriving DecidableEq, Repr

/-- What `execute` answers (R263): the state and `cyclesRun`, the number of units run. -/
structure Executed where
  state : State
  cyclesRun : Nat
deriving DecidableEq, Repr

/-- `execute(q)` (R230, R263): `CPUSTEP` repeated, at most `q` times and as often as the core has a unit to run, cut
short by the halt (R223). A unit is one CPU step (log entry 29). -/
def execute : (q : Nat) → (units : List (List EnvEvent)) → State → Host.Outcome Executed Fault Refusal
  | 0, _, s => .next { state := s, cyclesRun := 0 }
  | _ + 1, [], s => .next { state := s, cyclesRun := 0 }
  | q + 1, vs :: units, s =>
    if s.sched = .running then
      andThen (andThen (andThen (environment vs s) execCpuStep) (execute q units)) fun e =>
        .next { e with cyclesRun := e.cyclesRun + 1 }
    else .next { state := s, cyclesRun := 0 }

/-- The clock test after a quantum (R230): the tick when it is due, else the sleep, in which at most `T_SLEEP` of time
passes. A halted machine has no tick and sleeps (R224). -/
def tickOrSleep (sleep : List EnvEvent) (s : State) : Result :=
  if tickEnabled s = true then execTick s else environment (within s.par.tSleep sleep) s

/-- What a call of `update` reports (R229, R231): the two status outputs, and whether any unit ran. -/
structure UpdateReport where
  state : State
  halted : Bool
  cpuIdle : Bool
  ran : Bool
deriving DecidableEq, Repr

/-- The status output `cpu_idle` (R231, R263): the last `execute` ran zero units although no halt was signalled. It
is the CPU core's and no state of the block. -/
def Executed.cpuIdle (e : Executed) : Bool := decide (e.cyclesRun = 0) && !e.state.haltReq

/-- One call of the cooperative drive `update` with quantum `q` (R229, R230): the quantum, then the tick or the sleep,
then the report. Called in Stopped, of which R229 does not speak, it runs no unit and sleeps (DESIGN CHOICE, log
entry 29). -/
def updateCall (q : Nat) (k : Quantum) (sleep : List EnvEvent) (s : State) :
    Host.Outcome UpdateReport Fault Refusal :=
  andThen (execute q k.units s) fun e =>
    andThen (andThen (environment k.rest e.state) (tickOrSleep sleep)) fun t =>
      .next { state := t, halted := t.halted, cpuIdle := e.cpuIdle, ran := decide (0 < e.cyclesRun) }

/-- The blocking drive `run` with quantum `q` (R228, R230), one entry of `rounds` for each round; a halt ends it. Called
in Stopped it returns at once too and no time passes: R228 and R231 do not speak of that call (DESIGN CHOICE, log
entry 29). -/
def runDrive (q : Nat) : (rounds : List Quantum) → State → Result
  | [], s => .next s
  | k :: rounds, s =>
    if s.sched = .running then
      andThen (execute q k.units s) fun e =>
        andThen (environment k.rest e.state) fun t =>
          andThen (if tickEnabled t = true then execTick t else .next t) (runDrive q rounds)
    else .next s

end Sys2Proof.Machine
end

