-- ==== Sys2Proof/Machine/Screen.lean ====
section
/-! DEFINITION. The screen model, a function of the console trace (45_loader_host.md R261, 10_state.md R39). No rule of
the block reads it. -/

namespace Sys2Proof.Machine

/-- What one cell of the terminal shows. -/
structure ScreenCell where
  glyph : Char
  fg : Color
  bg : Color
deriving DecidableEq, Repr

/-- The console state of R261. A cell that is not listed is unspecified (U9); cursor and colours are unspecified
before the first command that sets them. The latest entry of a cell stands first. -/
structure Screen where
  cursor : Option (Nat × Nat)
  colors : Option (Color × Color)
  grid : List ((Nat × Nat) × ScreenCell)
  visible : List ((Nat × Nat) × ScreenCell)
deriving DecidableEq, Repr

/-- The console before any command. -/
def Screen.initial : Screen where
  cursor := none
  colors := none
  grid := []
  visible := []

/-- One command (R256 to R259, R261). A `Put` before any cursor or colour is set, which the block never sends
(R258), leaves the grid as it is (log entry 28). -/
def Screen.apply (scr : Screen) (c : ConCmd) : Screen :=
  match c with
  | .setCursor x y => { scr with cursor := some (x, y) }
  | .setColor f b => { scr with colors := some (f, b) }
  | .put g =>
    match scr.cursor, scr.colors with
    | some at_, some (f, b) => { scr with grid := (at_, { glyph := g, fg := f, bg := b }) :: scr.grid }
    | _, _ => scr
  | .flush => { scr with visible := scr.grid }

/-- The console after a trace (R261). -/
def screenOf (cmds : List ConCmd) : Screen := cmds.foldl Screen.apply Screen.initial

/-- What a grid shows at a cell; none where it is unspecified. -/
def cellAt (grid : List ((Nat × Nat) × ScreenCell)) (at_ : Nat × Nat) : Option ScreenCell :=
  (grid.find? fun e => decide (e.1 = at_)).map Prod.snd

/-- `screen` (R39, R261). -/
def State.screen (s : State) (at_ : Nat × Nat) : Option ScreenCell := cellAt (screenOf s.conOut).grid at_

/-- `visible`, the value of `screen` at the latest `Flush` (R39, R261). -/
def State.visible (s : State) (at_ : Nat × Nat) : Option ScreenCell := cellAt (screenOf s.conOut).visible at_

end Sys2Proof.Machine
end

