-- ==== Sys2Proof/Safety.lean ====
section
/-! DEFINITION. What the claims are about: the invariant of the machine's states and what a completed run is. -/

namespace Sys2Proof.Machine

/-- The invariant that every step keeps: the parameters meet R8; both arrays have `size` bytes (R25, R26); the map
is valid and its ranges are disjoint (R157, R158); the cached extent is in 1..255 (R30, R185); the start time is
past (R103); plain memory is in its canonical form; the key buffer holds no more than its depth (R260); a running
machine has no halt pending and a halted one has (R212, R223). -/
structure State.Inv (s : State) : Prop where
  par_ok : s.par.ok = true
  chr_size : s.chr.length = s.size
  col_size : s.col.length = s.size
  map_valid : s.map.valid = true
  map_disjoint : s.map.disjoint = true
  extent : dimOk s.crw = true ∧ dimOk s.crh = true
  started_past : s.startT ≤ s.now
  mem_wf : s.mem.wf = true
  keys_fit : ∀ d, s.par.keybufDepth = some d → s.keyq.length ≤ d
  running_no_halt : s.sched = .running → s.haltReq = false
  halted_has_halt : s.sched = .halted → s.haltReq = true

/-- `t` is `s` after the register file became `x'` with the remap (R102, R154, R156): both arrays in the new size, the
common beginning kept, plain memory outside both old ranges as before; the draw counter is the model's. -/
def Remapped (x' : Regs) (s t : State) : Prop :=
  t = { s with x := x', chr := t.chr, col := t.col, mem := t.mem, freeCtr := t.freeCtr }
    ∧ t.chr.length = ramSize x' ∧ t.col.length = ramSize x'
    ∧ (∀ k, k < min s.chr.length (ramSize x') → t.chr[k]? = s.chr[k]?)
    ∧ (∀ k, k < min s.col.length (ramSize x') → t.col[k]? = s.col[k]?)
    ∧ (∀ a, ¬(s.map.textBase ≤ a ∧ a < s.map.textBase + s.size) →
        ¬(s.map.colorBase ≤ a ∧ a < s.map.colorBase + s.size) → t.mem.read a = s.mem.read a)

/-- `t` is `s` after byte `b` of an image was written at `addr` (R250): the bus write that the address decodes to with
the mapping in force, or the write of plain memory. -/
def ByteStored (s : State) (addr : Word16) (b : Byte) (t : State) : Prop :=
  (∃ i, decodeBus s.map (busWord true addr b) = .op i ∧ exec i s = .next t)
    ∨ (decodeAddr s.map addr = .none ∧ t = { s with mem := s.mem.write addr.toNat b })

/-- A completed run ends here (R224, R281): halted, with no configuration error. -/
def State.completed (s : State) : Prop := s.sched = .halted ∧ s.cfgErr = none

/-- A console command stays on a terminal of `w` by `h` cells (R176, R256). -/
def ConCmd.inBounds (w h : Nat) : ConCmd → Prop
  | .setCursor x y => x < w ∧ y < h
  | .setColor _ _ | .put _ | .flush => True

end Sys2Proof.Machine
end

