-- ==== Sys2Proof/Certificates/Slice0/Obligations.lean ====
section
/-! DEFINITION. The statements for the provers. A statement that gives a next state in full says its frame too: every
field that is not named is the old one. -/

open Sys2Proof Sys2Proof.Machine

/-! ### Encoding -/

/-- A few words written out from 30_encoding.md R80 to R84 decode to the operations they stand for, and a word of no
range and an unlisted event code to none. Not R80 to R84 alone: the page 0xD7 is the default of D2, the palette
offset 0x80 that of D4, the ranges at 0x0400 and 0xD800 are the presumed reset pointers of log entry 2 (D22), and
that table words are decoded under the map after reset is the model's choice (log entry 27). Rests on the spec's
decisions D1, D3. -/
def Obligations.WordsOfEachFamilyDecode : Prop :=
  decodeTableWord 32 0x0D70000 = some .rdWinX ∧ decodeTableWord 32 0x0D70A00 = some .rdKeys
    ∧ decodeTableWord 32 0x1D70250 = some (.wrWinW 0x50) ∧ decodeTableWord 32 0x1D70901 = some (.wrIrqR 0x01)
    ∧ decodeTableWord 32 0x0D78300 = some (.rdPal 3) ∧ decodeTableWord 32 0x1D7C4AA = some (.wrPal 68 0xAA)
    ∧ decodeTableWord 32 0x1D711AA = some (.wrUnknown 0x11 0xAA) ∧ decodeTableWord 32 0x0D7E000 = some (.rdUnknown 0xE0)
    ∧ decodeTableWord 32 0x1040088 = some (.wrText 0 0x88) ∧ decodeTableWord 32 0x0DBFF00 = some (.rdColor 1023)
    ∧ decodeTableWord 32 0x1080055 = none ∧ decodeTableWord 8 0x03 = some .tick ∧ decodeTableWord 8 0x08 = none

/-- Decoding the encoding of any operation that is well-formed under a valid and disjoint map gives the operation back
(R80 to R88, R151, R158). Rests on the spec's decisions D1, D3, D5, D6, D11, D14, D18. -/
def Obligations.EncodeThenDecodeReturnsTheOperation : Prop :=
  ∀ m : AddrMap, 0x11 ≤ m.palOff.toNat → m.palOff.toNat ≤ 0xA0 → m.valid = true → m.disjoint = true →
    ∀ i : Instr, i.wf m = true → decodePacket m (encode m i) = .op i

/-- A transaction that decodes to an operation is that operation's encoding, but for the data bits that a read
ignores; the operation is well-formed (R80, R85, R88). Rests on the spec's decision D1. -/
def Obligations.DecodedOperationEncodesToItsTransaction : Prop :=
  ∀ (m : AddrMap) (w : BusWord) (i : Instr), decodeBus m w = .op i →
    i.wf m = true ∧ encode m i = .bus (busWord w.isWrite w.addr (if w.isWrite = true then w.data else 0))

/-- A transaction is an operation of the block exactly when its address lies in one of the three ranges; every other
transaction goes to plain memory (R70, R82, R91). -/
def Obligations.TransactionIsAnOperationExactlyInTheRanges : Prop :=
  ∀ (m : AddrMap) (w : BusWord),
    ((∃ i, decodeBus m w = .op i) ↔
      (w.addr.toNat / 256 = m.regPage.toNat
        ∨ (m.textPtr.toNat * 256 ≤ w.addr.toNat ∧ w.addr.toNat < m.textPtr.toNat * 256 + m.size)
        ∨ (m.colorPtr.toNat * 256 ≤ w.addr.toNat ∧ w.addr.toNat < m.colorPtr.toNat * 256 + m.size)))
    ∧ ((¬∃ i, decodeBus m w = .op i) →
        decodeBus m w = if w.isWrite = true then .plainWrite w.addr w.data else .plainRead w.addr)

/-- Offsets and addresses of both RAM ranges translate into each other without wrap (R151). -/
def Obligations.OffsetTranslationRoundTrips : Prop :=
  ∀ m : AddrMap, m.valid = true → m.disjoint = true →
    (∀ (a : Word16) (o : Nat), decodeAddr m a = .text o →
      o < m.size ∧ o = a.toNat - m.textPtr.toNat * 256 ∧ textAddr m o = a)
    ∧ (∀ (a : Word16) (o : Nat), decodeAddr m a = .color o →
      o < m.size ∧ o = a.toNat - m.colorPtr.toNat * 256 ∧ colorAddr m o = a)
    ∧ (∀ o, o < m.size →
      decodeAddr m (textAddr m o) = .text o ∧ (textAddr m o).toNat = m.textPtr.toNat * 256 + o
        ∧ decodeAddr m (colorAddr m o) = .color o ∧ (colorAddr m o).toNat = m.colorPtr.toNat * 256 + o)

/-! ### The step and the machine's invariants -/

/-- A step takes the first pending operation and performs it, decoded with the mapping in force. That pending
operations stand in a list in State and that a step takes its first is the model's choice (log entry 4); R62 gives
that operations are performed one at a time in one order, R155 that decoding follows the mapping in force. -/
def Obligations.StepRunsTheDecodedOperation : Prop :=
  ∀ (s : State) (p : Packet) (rest : List Packet) (i : Instr),
    s.inbox = p :: rest → decodePacket s.map p = .op i → step s = exec i { s with inbox := rest }

/-- A transaction outside all three ranges reaches plain memory and changes no state of the block: a write stores its
byte and no other, a read gives the CPU core the byte (R70; `rdOut` is the model's, log entry 7). -/
def Obligations.UnmappedTransactionReachesPlainMemory : Prop :=
  ∀ (s : State) (w : BusWord) (rest : List Packet),
    s.inbox = .bus w :: rest → decodeAddr s.map w.addr = .none →
      (w.isWrite = false → step s = .next { s with inbox := rest, rdOut := s.rdOut ++ [s.mem.read w.addr.toNat] })
      ∧ (w.isWrite = true → ∃ m, step s = .next { s with inbox := rest, mem := m } ∧ m.read w.addr.toNat = w.data
          ∧ ∀ b, b ≠ w.addr.toNat → m.read b = s.mem.read b)

/-- The state after reset meets the invariant (R44, R157, R158; the console's size, the time and the empty queues of
State.reset are the model's choice, log entry 3). Rests on the spec's decisions D1, D13, D14, D15, D22, D31. -/
def Obligations.ResetStateMeetsTheInvariant : Prop := State.reset.Inv

/-- Every step keeps the invariant: array lengths, valid and disjoint map, cached extent, canonical plain memory,
bounded key buffer, halt flag and scheduler state in step (R25, R26, R157, R158, R30, R103, R223). Rests on the
spec's decisions D13, D14, D16, D20. -/
def Obligations.EveryStepKeepsTheInvariant : Prop :=
  ∀ s t : State, s.Inv → step s = .next t → t.Inv

/-- No step changes a parameter (R45), so the register page never moves (R160): an address on it always decodes to its
register offset. -/
def Obligations.ParametersAndRegisterPageNeverMove : Prop :=
  ∀ s t : State, step s = .next t →
    t.par = s.par ∧ ∀ off : Byte, t.decode (s.par.regPage ++ off) = .reg off

/-- Both output traces only grow, except in `RESET` (R39, R40, R310). Rests on the spec's decisions D1, D22, D31. -/
def Obligations.OutputTracesOnlyGrow : Prop :=
  ∀ s t : State, step s = .next t →
    (∀ p rest w h, s.inbox = p :: rest → decodePacket s.map p ≠ .op (.reset w h)) →
      s.conOut <+: t.conOut ∧ s.irqOut <+: t.irqOut

/-- But for `RESET`: Halted is terminal, Running becomes Halted only, only `START` leaves Stopped, and neither the
halt request nor the configuration error is ever cleared (R35, R36, R210, R224, R281). Rests on the spec's
decisions D13, D20. -/
def Obligations.SchedulerTransitions : Prop :=
  ∀ s t : State, step s = .next t →
    (∀ p rest w h, s.inbox = p :: rest → decodePacket s.map p ≠ .op (.reset w h)) →
      (s.sched = .halted → t.sched = .halted) ∧ (s.sched = .running → t.sched = .running ∨ t.sched = .halted)
      ∧ (s.sched = .stopped → t.sched = .stopped
          ∨ ∃ p rest e, s.inbox = p :: rest ∧ decodePacket s.map p = .op (.start e))
      ∧ (s.haltReq = true → t.haltReq = true) ∧ (s.cfgErr ≠ none → t.cfgErr ≠ none)

/-- `TICK` and `CPUSTEP` are no step exactly outside their enabling conditions (R214, R225; the fault stands for 'not
enabled', log entry 17). Rests on the spec's decisions D19, D26. -/
def Obligations.DisabledEventsAreNoStep : Prop :=
  ∀ s : State,
    (exec .tick s = .fault (.notEnabled "TICK") ↔ ¬(s.sched = .running ∧ s.nextUpdate ≤ s.now))
    ∧ (exec .cpuStep s = .fault (.notEnabled "CPUSTEP") ↔ s.sched ≠ .running)

/-! ### Register reads -/

/-- The ten plain reads return the stored byte and change nothing (R101, R110 to R119). -/
def Obligations.PlainReadsReturnTheStoredByte : Prop :=
  ∀ s : State,
    exec .rdWinX s = .next { s with rdOut := s.rdOut ++ [s.x.winX] }
    ∧ exec .rdWinY s = .next { s with rdOut := s.rdOut ++ [s.x.winY] }
    ∧ exec .rdWinW s = .next { s with rdOut := s.rdOut ++ [s.x.winW] }
    ∧ exec .rdWinH s = .next { s with rdOut := s.rdOut ++ [s.x.winH] }
    ∧ exec .rdTextPtr s = .next { s with rdOut := s.rdOut ++ [s.x.textPtr] }
    ∧ exec .rdColorPtr s = .next { s with rdOut := s.rdOut ++ [s.x.colorPtr] }
    ∧ exec .rdCharset s = .next { s with rdOut := s.rdOut ++ [s.x.charset] }
    ∧ exec .rdFreq s = .next { s with rdOut := s.rdOut ++ [s.x.freq] }
    ∧ exec .rdIrqE s = .next { s with rdOut := s.rdOut ++ [s.x.irqE] }
    ∧ exec .rdIrqR s = .next { s with rdOut := s.rdOut ++ [s.x.irqR] }

/-- A read of register offset 0x0A, Keys, drains one key, oldest first, and returns 0 when there is none (R120). -/
def Obligations.KeysReadDrainsOneKey : Prop :=
  ∀ s : State,
    (∀ d : Byte, decodeBus s.map (busWord false (s.par.regPage ++ 0x0A#8) d) = .op .rdKeys)
    ∧ (s.keyq = [] → exec .rdKeys s = .next { s with rdOut := s.rdOut ++ [0] })
    ∧ ∀ b rest, s.keyq = b :: rest → exec .rdKeys s = .next { s with keyq := rest, rdOut := s.rdOut ++ [b] }

/-- The timer reads return the low and the high byte of the 16-bit count of timer units since the start (R103, R121,
R122). -/
def Obligations.TimerReadsSplitTheCount : Prop :=
  ∀ s : State,
    exec .rdTimerLo s
      = .next { s with rdOut := s.rdOut ++ [BitVec.ofNat 8 ((s.now - s.startT) / s.par.timerDiv % 65536 % 256)] }
    ∧ exec .rdTimerHi s
      = .next { s with rdOut := s.rdOut ++ [BitVec.ofNat 8 ((s.now - s.startT) / s.par.timerDiv % 65536 / 256)] }

/-- RealW and RealH return the console's live size, not the cached one, and refuse a size outside 1..255 (R123, R124,
R31). Rests on the spec's decision D16. -/
def Obligations.RealSizeReadsAreLive : Prop :=
  ∀ s : State,
    (1 ≤ s.cw ∧ s.cw ≤ 255 → exec .rdRealW s = .next { s with rdOut := s.rdOut ++ [BitVec.ofNat 8 s.cw] })
    ∧ (¬(1 ≤ s.cw ∧ s.cw ≤ 255) → exec .rdRealW s = .refused .consoleDims)
    ∧ (1 ≤ s.ch ∧ s.ch ≤ 255 → exec .rdRealH s = .next { s with rdOut := s.rdOut ++ [BitVec.ofNat 8 s.ch] })
    ∧ (¬(1 ≤ s.ch ∧ s.ch ≤ 255) → exec .rdRealH s = .refused .consoleDims)

/-- A read of Control or CFillOut returns some byte and has no side effect but the model's count of free draws (R125,
R126; log entries 13, 22). Rests on the spec's decision D10. -/
def Obligations.WriteOnlyReadsReturnSomeByte : Prop :=
  ∀ s : State,
    (∃ v, exec .rdControl s = .next { s with rdOut := s.rdOut ++ [v], freeCtr := s.freeCtr + 1 })
    ∧ ∃ v, exec .rdCFillOut s = .next { s with rdOut := s.rdOut ++ [v], freeCtr := s.freeCtr + 1 }

/-- A register offset above 0x10 outside the palette is an unknown register: it reads as 0 and ignores writes, so a
read after a write still returns 0 (R127, R148). -/
def Obligations.UnknownRegistersReadZeroAndIgnoreWrites : Prop :=
  ∀ (s : State) (off v : Byte),
    0x10 < off.toNat → ¬(s.par.palOff.toNat ≤ off.toNat ∧ off.toNat ≤ s.par.palOff.toNat + 95) →
      decodeBus s.map (busWord false (s.par.regPage ++ off) v) = .op (.rdUnknown off)
      ∧ decodeBus s.map (busWord true (s.par.regPage ++ off) v) = .op (.wrUnknown off v)
      ∧ exec (.rdUnknown off) s = .next { s with rdOut := s.rdOut ++ [0] }
      ∧ exec (.wrUnknown off v) s = .next s

/-- A palette write stores its byte and nothing else; a palette read returns the byte last written there (R23, R128,
R139). Rests on the spec's decision D30. -/
def Obligations.PaletteWriteThenRead : Prop :=
  ∀ (s : State) (i j : Nat) (v : Byte) (hi : i < 96) (hj : j < 96),
    exec (.rdPal j) s = .next { s with rdOut := s.rdOut ++ [s.pal[j]] }
    ∧ ∃ t, exec (.wrPal i v) s = .next t ∧ t = { s with pal := t.pal }
        ∧ exec (.rdPal j) t = .next { t with rdOut := t.rdOut ++ [if i = j then v else s.pal[j]] }

/-! ### Register writes -/

/-- A geometry write that gives a valid and disjoint map stores its byte and remaps, in one step, and draws nothing
(R102, R130 to R135, R154 to R156, R161). Rests on the spec's decision D15. -/
def Obligations.GeometryWriteStoresAndRemaps : Prop :=
  ∀ (s : State) (v : Byte) (r : RegId) (i : Instr),
    (r, i) ∈ [(RegId.winX, Instr.wrWinX v), (.winY, .wrWinY v), (.winW, .wrWinW v), (.winH, .wrWinH v),
      (.textPtr, .wrTextPtr v), (.colorPtr, .wrColorPtr v)] →
    (mapOf s.par (s.x.set r v)).valid = true → (mapOf s.par (s.x.set r v)).disjoint = true →
      ∃ t, exec i s = .next t ∧ Remapped (s.x.set r v) s t

/-- In a state that meets the invariant a write of WinX or WinY always completes, and changes nothing but the
register: no array, no map, no plain memory (R130, R131; the draw counter is the model's). -/
def Obligations.PositionWriteAlwaysCompletes : Prop :=
  ∀ (s : State) (v : Byte), s.Inv →
    exec (.wrWinX v) s = .next { s with x := { s.x with winX := v }, freeCtr := s.freeCtr + 1 }
    ∧ exec (.wrWinY v) s = .next { s with x := { s.x with winY := v }, freeCtr := s.freeCtr + 1 }

/-- A size or pointer write whose range would pass the top of the address space changes nothing but the sticky
configuration error, which records the register and the rejected value (R102, R157, R281, R282). That a second
error's record replaces the first is the model's choice (log entry 21); the spec does not say which of two stays.
Rests on the spec's decision D13. -/
def Obligations.InvalidGeometryWriteRaisesConfigError : Prop :=
  ∀ (s : State) (v : Byte) (r : RegId) (i : Instr),
    (r, i) ∈ [(RegId.winW, Instr.wrWinW v), (.winH, .wrWinH v), (.textPtr, .wrTextPtr v), (.colorPtr, .wrColorPtr v)] →
    65536 < max (s.x.set r v).textPtr.toNat (s.x.set r v).colorPtr.toNat * 256
        + ((s.x.set r v).winW.toNat * (s.x.set r v).winH.toNat + 255) / 256 * 256 →
      exec i s = .next { s with cfgErr := some { kind := .windowTooLarge, reg := r, value := v } }

/-- A geometry write that gives a valid map with overlapping ranges is refused (R102, R158, R288). Rests on the spec's
decision D14. -/
def Obligations.OverlappingGeometryWriteIsRefused : Prop :=
  ∀ (s : State) (v : Byte) (r : RegId) (i : Instr),
    (r, i) ∈ [(RegId.winX, Instr.wrWinX v), (.winY, .wrWinY v), (.winW, .wrWinW v), (.winH, .wrWinH v),
      (.textPtr, .wrTextPtr v), (.colorPtr, .wrColorPtr v)] →
    (mapOf s.par (s.x.set r v)).valid = true → (mapOf s.par (s.x.set r v)).disjoint = false →
      exec i s = .refused .overlappingRanges

/-- A pointer write moves its array's content to the new range: every offset keeps its byte and is decoded at the new
address (R134, R135, R156). Rests on the spec's decision D15. -/
def Obligations.PointerWriteMovesTheContent : Prop :=
  ∀ (s t : State) (v : Byte), s.Inv →
    (exec (.wrTextPtr v) s = .next t → t.cfgErr = s.cfgErr → s.cfgErr = none →
      t.chr = s.chr ∧ t.col = s.col ∧ t.size = s.size
      ∧ ∀ o, o < s.size → t.decode (BitVec.ofNat 16 (v.toNat * 256 + o)) = .text o)
    ∧ (exec (.wrColorPtr v) s = .next t → t.cfgErr = s.cfgErr → s.cfgErr = none →
      t.chr = s.chr ∧ t.col = s.col ∧ t.size = s.size
      ∧ ∀ o, o < s.size → t.decode (BitVec.ofNat 16 (v.toNat * 256 + o)) = .color o)

/-- Writes of Charset, Freq and IrqE just store (R136, R137, R138): no interrupt, no draw, no other effect. Rests on
the spec's decisions D7, D12. -/
def Obligations.PlainWritesJustStore : Prop :=
  ∀ (s : State) (v : Byte),
    exec (.wrCharset v) s = .next { s with x := { s.x with charset := v } }
    ∧ exec (.wrFreq v) s = .next { s with x := { s.x with freq := v } }
    ∧ exec (.wrIrqE v) s = .next { s with x := { s.x with irqE := v } }

/-- A write of IrqR inverts exactly the bits it gives, and raises nothing; the acknowledge clears a set timer bit, and
a second one sets it again (R140, R219). Rests on the spec's decision D12. -/
def Obligations.IrqRWriteInvertsTheGivenBits : Prop :=
  ∀ (s : State) (v : Byte),
    ∃ t, exec (.wrIrqR v) s = .next t ∧ t = { s with x := { s.x with irqR := t.x.irqR } }
      ∧ (∀ j, t.x.irqR.getLsbD j = (s.x.irqR.getLsbD j != v.getLsbD j))
      ∧ (v = 1#8 <<< s.par.timerBit.val → (t.x.irqR &&& v = 0 ↔ s.x.irqR &&& v ≠ 0))

/-- Writes to the five read-only registers change nothing (R141 to R145). Rests on the spec's decision D9. -/
def Obligations.WritesToReadOnlyRegistersAreIgnored : Prop :=
  ∀ (s : State) (v : Byte),
    exec (.wrKeys v) s = .next s ∧ exec (.wrTimerLo v) s = .next s ∧ exec (.wrTimerHi v) s = .next s
    ∧ exec (.wrRealW v) s = .next s ∧ exec (.wrRealH v) s = .next s

/-- A Control write without the forced tick: with bit 0 clear it does nothing; with bit 0 set it sets the halt flag,
and when running flushes once and ends in Halted (R146, R223). Rests on the spec's decisions D11, D19, D20. -/
def Obligations.ControlWriteHalts : Prop :=
  ∀ (s : State) (v : Byte), v.getLsbD 1 = false →
    (v.getLsbD 0 = false → exec (.wrControl v) s = .next s)
    ∧ (v.getLsbD 0 = true → s.sched = .running →
        exec (.wrControl v) s
          = .next { s with haltReq := true, sched := .halted, conOut := s.conOut ++ [.flush] })
    ∧ (v.getLsbD 0 = true → s.sched ≠ .running → exec (.wrControl v) s = .next { s with haltReq := true })

/-- A forced tick, in every scheduler state, is a full tick body and leaves the deadline alone: flush, timer bit
latched, cached size refreshed, and an interrupt to the vector's content exactly on an enabled 0 to 1 edge (R146,
R215, R216, R221, R222). In Halted, where R224 says that there is no interrupt, following R221 is the model's
choice (log entry 34). Rests on the spec's decisions D11, D19, D23. -/
def Obligations.ForcedTickRunsTheTickBody : Prop :=
  ∀ (s : State) (v : Byte), v.getLsbD 1 = true → v.getLsbD 0 = false → dimOk s.cw = true → dimOk s.ch = true →
    (¬(s.x.irqR &&& (1#8 <<< s.par.timerBit.val) = 0 ∧ s.x.irqE &&& (1#8 <<< s.par.timerBit.val) ≠ 0) →
      exec (.wrControl v) s
        = .next { s with
            conOut := s.conOut ++ [.flush], x := { s.x with irqR := s.x.irqR ||| (1#8 <<< s.par.timerBit.val) }
            crw := s.cw, crh := s.ch })
    ∧ (s.x.irqR &&& (1#8 <<< s.par.timerBit.val) = 0 → s.x.irqE &&& (1#8 <<< s.par.timerBit.val) ≠ 0 →
      s.decode s.par.irqVector = .none → s.decode (s.par.irqVector + 1) = .none →
      ∃ target, target.toNat = (s.mem.read s.par.irqVector.toNat).toNat
          + 256 * (s.mem.read (s.par.irqVector + 1).toNat).toNat
        ∧ exec (.wrControl v) s
          = .next { s with
              conOut := s.conOut ++ [.flush], x := { s.x with irqR := s.x.irqR ||| (1#8 <<< s.par.timerBit.val) }
              crw := s.cw, crh := s.ch, irqOut := s.irqOut ++ [target] })

/-- With both bits set the tick body runs first and the halt second (R146, R288). Rests on the spec's decisions D11,
D19. -/
def Obligations.ForcedTickComesBeforeTheHalt : Prop :=
  ∀ (s t : State) (v : Byte), v.getLsbD 1 = true → v.getLsbD 0 = true → exec (.wrControl 0x02) s = .next t →
    exec (.wrControl v) s = exec (.wrControl 0x01) t

/-- The closed form of the window test is the image of the window under the transform (R183). Rests on the spec's
decision D18. -/
def Obligations.InWindowIsTheImageOfTheWindow : Prop :=
  ∀ (s : State) (cx cy : Nat), cx < s.crw → cy < s.crh →
    (inWindow s cx cy = true ↔ ∃ i j, i < s.x.winW.toNat ∧ j < s.x.winH.toNat
      ∧ (i + s.x.winX.toNat) % s.crw = cx ∧ (j + s.x.winY.toNat) % s.crh = cy)

/-- A write of CFillOut latches its byte and paints exactly the terminal cells outside the window, blank on the
background colour of its low four bits; cells inside keep what they show; the trace is only appended to, without a
flush, so that nothing becomes visible, and nothing else changes (R66, R147, R182, R183, R189). The foreground
passed with the blank is the spec's choice of R182. What the screen shows is read off the trace (log entry 28).
Rests on the spec's decisions D10, D18. -/
def Obligations.CFillOutPaintsExactlyOutsideTheWindow : Prop :=
  ∀ (s : State) (v : Byte),
    ∃ t, exec (.wrCFillOut v) s = .next t
      ∧ t = { s with x := { s.x with cFillOut := v }, conOut := t.conOut }
      ∧ s.conOut <+: t.conOut
      ∧ (∀ cx cy, cx < s.crw → cy < s.crh → inWindow s cx cy = false →
          t.screen (cx, cy) = some
            { glyph := s.par.blankGlyph
              fg := palColor s.pal 1 (v.extractLsb' 0 4), bg := palColor s.pal 1 (v.extractLsb' 0 4) })
      ∧ (∀ cx cy, inWindow s cx cy = true → t.screen (cx, cy) = s.screen (cx, cy))
      ∧ (∀ cx cy, s.crw ≤ cx ∨ s.crh ≤ cy → t.screen (cx, cy) = s.screen (cx, cy))
      ∧ (∀ at_, t.visible at_ = s.visible at_)
      ∧ ∀ cmds, t.conOut = s.conOut ++ cmds → ConCmd.flush ∉ cmds

/-! ### VideoRAM -/

/-- A text write stores its byte and draws the cell at once: position, the foreground's three bytes from the palette's
first set and the background's from its second, the indices being the nibbles of the colour byte in the order of
FG_NIBBLE, exchanged when bit 7 of the character is set, and the glyph of the whole byte; the colour byte is not
changed (R24, R170, R175, R178 to R181, R186, R187, R201). Rests on the spec's decisions D4, D5, D34. -/
def Obligations.TextWriteStoresAndDraws : Prop :=
  ∀ (s : State) (o : Nat) (v k : Byte),
    s.x.winW ≠ 0 → s.x.winH ≠ 0 → o < s.chr.length → s.col[o]? = some k →
      ∃ f b : Fin 16,
        (f.val, b.val)
          = (match s.par.fgNibble, v.getLsbD 7 with
            | .low, false => (k.toNat % 16, k.toNat / 16)
            | .low, true => (k.toNat / 16, k.toNat % 16)
            | .high, false => (k.toNat / 16, k.toNat % 16)
            | .high, true => (k.toNat % 16, k.toNat / 16))
        ∧ exec (.wrText o v) s
          = .next { s with
              chr := s.chr.set o v
              conOut := s.conOut ++
                [.setCursor ((o % s.x.winW.toNat + s.x.winX.toNat) % s.crw)
                   ((o / s.x.winW.toNat + s.x.winY.toNat) % s.crh),
                 .setColor
                   { chan0 := s.pal[f.val * 3], chan1 := s.pal[f.val * 3 + 1], chan2 := s.pal[f.val * 3 + 2] }
                   { chan0 := s.pal[48 + b.val * 3], chan1 := s.pal[48 + b.val * 3 + 1]
                     chan2 := s.pal[48 + b.val * 3 + 2] },
                 .put (Config.charsetRom v)] }

/-- A colour write stores its byte and redraws the cell with the stored character, whose bit 7 decides the exchange of
the two indices, in the order of FG_NIBBLE otherwise; the three bytes of each colour come from the palette's two
sets; the character is not changed (R24, R171, R178, R179, R186, R187). Rests on the spec's decisions D4, D5. -/
def Obligations.ColorWriteStoresAndRedraws : Prop :=
  ∀ (s : State) (o : Nat) (v c : Byte),
    s.x.winW ≠ 0 → s.x.winH ≠ 0 → o < s.col.length → s.chr[o]? = some c →
      ∃ f b : Fin 16,
        (f.val, b.val)
          = (match s.par.fgNibble, c.getLsbD 7 with
            | .low, false => (v.toNat % 16, v.toNat / 16)
            | .low, true => (v.toNat / 16, v.toNat % 16)
            | .high, false => (v.toNat / 16, v.toNat % 16)
            | .high, true => (v.toNat % 16, v.toNat / 16))
        ∧ exec (.wrColor o v) s
          = .next { s with
              col := s.col.set o v
              conOut := s.conOut ++
                [.setCursor ((o % s.x.winW.toNat + s.x.winX.toNat) % s.crw)
                   ((o / s.x.winW.toNat + s.x.winY.toNat) % s.crh),
                 .setColor
                   { chan0 := s.pal[f.val * 3], chan1 := s.pal[f.val * 3 + 1], chan2 := s.pal[f.val * 3 + 2] }
                   { chan0 := s.pal[48 + b.val * 3], chan1 := s.pal[48 + b.val * 3 + 1]
                     chan2 := s.pal[48 + b.val * 3 + 2] },
                 .put (Config.charsetRom c)] }

/-- Reads of VideoRAM return the byte last written at the offset; a text write never disturbs a colour byte nor a
colour write a character (R64, R172, R173, R180). Rests on the spec's decision D28. -/
def Obligations.VideoRamReadsReturnTheLastWrite : Prop :=
  ∀ (s : State) (o p : Nat) (v c k : Byte),
    s.x.winW ≠ 0 → s.x.winH ≠ 0 → o < s.chr.length → o < s.col.length → s.chr[p]? = some c → s.col[p]? = some k →
      exec (.rdText p) s = .next { s with rdOut := s.rdOut ++ [c] }
      ∧ exec (.rdColor p) s = .next { s with rdOut := s.rdOut ++ [k] }
      ∧ (∃ t, exec (.wrText o v) s = .next t
          ∧ exec (.rdText p) t = .next { t with rdOut := t.rdOut ++ [if p = o then v else c] }
          ∧ exec (.rdColor p) t = .next { t with rdOut := t.rdOut ++ [k] })
      ∧ ∃ t, exec (.wrColor o v) s = .next t
          ∧ exec (.rdColor p) t = .next { t with rdOut := t.rdOut ++ [if p = o then v else k] }
          ∧ exec (.rdText p) t = .next { t with rdOut := t.rdOut ++ [c] }

/-- While a window dimension is 0, video writes are dropped, and no address decodes to VideoRAM (R27, R174). -/
def Obligations.ZeroDimensionDropsVideoWrites : Prop :=
  ∀ (s : State) (v : Byte), s.x.winW = 0 ∨ s.x.winH = 0 →
    (∀ o, exec (.wrText o v) s = .next s ∧ exec (.wrColor o v) s = .next s)
    ∧ ∀ (a : Word16) (o : Nat), s.decode a ≠ .text o ∧ s.decode a ≠ .color o

/-- A cell that a text write or a colour write draws shows the translated glyph at once, that of the written or of the
stored character, at its place on the terminal; no other cell of the screen changes, and nothing becomes visible
without a flush (R171, R175, R176, R178, R181, R261). What the screen shows is read off the trace (log entry 28).
Rests on the spec's decision D1. -/
def Obligations.DrawnCellShowsOnTheScreen : Prop :=
  ∀ (s t : State) (i : Instr) (o : Nat) (v c : Byte), s.Inv → o < s.size →
    (i = .wrText o v ∧ c = v) ∨ (i = .wrColor o v ∧ s.chr[o]? = some c) → exec i s = .next t →
    (coord s o).1 < s.crw ∧ (coord s o).2 < s.crh
    ∧ (∃ cell, t.screen (coord s o) = some cell ∧ cell.glyph = Config.charsetRom c)
    ∧ (∀ at_, at_ ≠ coord s o → t.screen at_ = s.screen at_) ∧ ∀ at_, t.visible at_ = s.visible at_

/-- Every cursor position that a drawing operation sends lies on the terminal (R176, R256). -/
def Obligations.DrawingStaysOnTheTerminal : Prop :=
  ∀ (s t : State) (i : Instr), 1 ≤ s.crw → 1 ≤ s.crh →
    ((∃ o v, i = .wrText o v) ∨ (∃ o v, i = .wrColor o v) ∨ (∃ v, i = .wrCFillOut v) ∨ ∃ e, i = .start e) →
    exec i s = .next t → ∃ cmds, t.conOut = s.conOut ++ cmds ∧ ∀ c ∈ cmds, c.inBounds s.crw s.crh

/-! ### Scheduler and interrupt -/

/-- `START` from Stopped frames the window with the latched colour, sends the CPU core to the entry or to the cached
auto-start address, restarts the timer and sets the first deadline; a halt requested before ends it in Halted with
one flush. From any other state it is refused (R212, R213). Rests on the spec's decision D21. -/
def Obligations.StartFramesAndRuns : Prop :=
  ∀ (s : State) (entry target : Word16),
    target = (match s.autostart with
      | some a => if entry = s.par.basicLoadAddr then a else entry
      | none => entry) →
    (s.sched = .stopped → s.haltReq = false →
      exec (.start entry) s
        = .next { s with
            conOut := s.conOut ++ fillCmds s s.x.cFillOut, pc := target, startT := s.now
            nextUpdate := s.now + s.par.tBoot, sched := .running })
    ∧ (s.sched = .stopped → s.haltReq = true →
      exec (.start entry) s
        = .next { s with
            conOut := s.conOut ++ fillCmds s s.x.cFillOut ++ [.flush], pc := target, startT := s.now
            nextUpdate := s.now + s.par.tBoot, sched := .halted })
    ∧ (s.sched ≠ .stopped → exec (.start entry) s = .refused .startNotStopped)

/-- An enabled `TICK` moves the deadline by one period from its old value, flushes, latches the timer bit and
refreshes the cached size; it raises the interrupt to the vector's content exactly on an enabled 0 to 1 edge (R214
to R217, R222, R232). Rests on the spec's decisions D19, D23. -/
def Obligations.TickLatchesAndRaisesOnAnEnabledEdge : Prop :=
  ∀ s : State, s.sched = .running → s.nextUpdate ≤ s.now → dimOk s.cw = true → dimOk s.ch = true →
    (¬(s.x.irqR &&& (1#8 <<< s.par.timerBit.val) = 0 ∧ s.x.irqE &&& (1#8 <<< s.par.timerBit.val) ≠ 0) →
      exec .tick s
        = .next { s with
            nextUpdate := s.nextUpdate + s.par.tPeriod, conOut := s.conOut ++ [.flush]
            x := { s.x with irqR := s.x.irqR ||| (1#8 <<< s.par.timerBit.val) }, crw := s.cw, crh := s.ch })
    ∧ (s.x.irqR &&& (1#8 <<< s.par.timerBit.val) = 0 → s.x.irqE &&& (1#8 <<< s.par.timerBit.val) ≠ 0 →
      s.decode s.par.irqVector = .none → s.decode (s.par.irqVector + 1) = .none →
      ∃ target, target.toNat = (s.mem.read s.par.irqVector.toNat).toNat
          + 256 * (s.mem.read (s.par.irqVector + 1).toNat).toNat
        ∧ exec .tick s
          = .next { s with
              nextUpdate := s.nextUpdate + s.par.tPeriod, conOut := s.conOut ++ [.flush]
              x := { s.x with irqR := s.x.irqR ||| (1#8 <<< s.par.timerBit.val) }, crw := s.cw, crh := s.ch
              irqOut := s.irqOut ++ [target] })

/-- Where an enabled `TICK`, and a Control write with bit 1 set in any scheduler state and with bit 0 clear or set, is
refused: a vector cell is mapped when the interrupt would be raised (never when it would not), or else the
console's size is outside 1..255, with an enabled edge or without (R146, R215, R222, R284). That a forced tick in
Halted tests the vector at all is the model's choice (log entry 34). Rests on the spec's decisions D11, D19, D23. -/
def Obligations.TickRefusals : Prop :=
  ∀ (s : State) (i : Instr),
    (i = .tick ∧ s.sched = .running ∧ s.nextUpdate ≤ s.now) ∨ (∃ v : Byte, v.getLsbD 1 = true ∧ i = .wrControl v) →
      (s.x.irqR &&& (1#8 <<< s.par.timerBit.val) = 0 → s.x.irqE &&& (1#8 <<< s.par.timerBit.val) ≠ 0 →
        ¬(s.decode s.par.irqVector = .none ∧ s.decode (s.par.irqVector + 1) = .none) →
        exec i s = .refused .vectorMapped)
      ∧ (s.x.irqR &&& (1#8 <<< s.par.timerBit.val) = 0 → s.x.irqE &&& (1#8 <<< s.par.timerBit.val) ≠ 0 →
        s.decode s.par.irqVector = .none → s.decode (s.par.irqVector + 1) = .none →
        ¬(dimOk s.cw = true ∧ dimOk s.ch = true) → exec i s = .refused .consoleDims)
      ∧ (¬(s.x.irqR &&& (1#8 <<< s.par.timerBit.val) = 0 ∧ s.x.irqE &&& (1#8 <<< s.par.timerBit.val) ≠ 0) →
        ¬(dimOk s.cw = true ∧ dimOk s.ch = true) → exec i s = .refused .consoleDims)

/-- No interrupt is raised but by a tick body: neither by a software XOR, nor by a late enable, nor by any other
operation that runs no tick body and no bus accesses of its own (R138, R220). Rests on the spec's decision D12. -/
def Obligations.OnlyTheTickBodyRaises : Prop :=
  ∀ (s t : State) (i : Instr), exec i s = .next t →
    i ≠ .tick → i ≠ .cpuStep → (∀ a bs, i ≠ .load a bs) → (∀ w h, i ≠ .reset w h) →
    (∀ v, i = .wrControl v → v.getLsbD 1 = false) → t.irqOut = s.irqOut

/-- Two updates in a row without an acknowledge raise at most one interrupt: after any update another one completes,
leaves the timer bit set and raises nothing. While the timer bit stays set no update raises (R218). -/
def Obligations.SecondUpdateRaisesNothing : Prop :=
  (∀ s t : State, doUpdate s = .next t →
    t.x.irqR &&& (1#8 <<< s.par.timerBit.val) ≠ 0 ∧ t.irqOut.length ≤ s.irqOut.length + 1
    ∧ ∃ u, doUpdate t = .next u ∧ u.irqOut = t.irqOut ∧ u.x = t.x)
  ∧ ∀ s t : State, s.x.irqR &&& (1#8 <<< s.par.timerBit.val) ≠ 0 → doUpdate s = .next t → t.irqOut = s.irqOut

/-- When a Control write halts a running machine, and when START meets a halt requested before, the last command is a
flush and what is visible is the screen (R212, R223, R224, R329). What the screen shows is read off the trace (log
entry 28). Rests on the spec's decisions D20, D21. -/
def Obligations.HaltMakesTheScreenVisible : Prop :=
  ∀ (s t : State) (i : Instr),
    (s.sched = .running ∧ ∃ v : Byte, v.getLsbD 0 = true ∧ i = .wrControl v)
      ∨ (s.sched = .stopped ∧ s.haltReq = true ∧ ∃ entry, i = .start entry) →
    exec i s = .next t →
      t.sched = .halted ∧ t.haltReq = true ∧ (∃ cmds, t.conOut = s.conOut ++ cmds ++ [.flush])
      ∧ ∀ at_, t.visible at_ = t.screen at_

/-- Time passes, the console is resized and keys arrive in every scheduler state; a key is buffered unless the buffer
has reached its depth, and then dropped (R226, R227, R260; the drop on a full buffer is the spec's model, U10).
Rests on the spec's decisions D16, D26, D27. -/
def Obligations.EnvironmentEventsAlwaysComplete : Prop :=
  ∀ (s : State) (dt w h : Nat) (b : Byte),
    exec (.advance dt) s = .next { s with now := s.now + dt }
    ∧ exec (.resize w h) s = .next { s with cw := w, ch := h }
    ∧ ((∀ d, s.par.keybufDepth = some d → s.keyq.length < d) →
        exec (.key b) s = .next { s with keyq := s.keyq ++ [b] })
    ∧ (∀ d, s.par.keybufDepth = some d → d ≤ s.keyq.length → exec (.key b) s = .next s)

/-- A CPU step whose instruction makes one bus access of the block performs exactly that operation (R225). The queue
of accesses is the model's (log entry 6), and that nothing comes between two of them (log entry 35). Rests on the
spec's decision D26. -/
def Obligations.CpuStepPerformsItsAccess : Prop :=
  ∀ (s : State) (w : BusWord) (ws : List BusWord) (rest : List (List BusWord)) (i : Instr),
    s.sched = .running → s.cpuq = (w :: ws) :: rest → decodeBus s.map w = .op i →
      (ws = [] → exec .cpuStep s = exec i { s with cpuq := rest })
      ∧ ∀ t, exec i { s with cpuq := rest } = .next t → t.sched = .running →
          exec .cpuStep s = exec .cpuStep { t with cpuq := ws :: t.cpuq }

/-- A CPU step whose instruction's first access lies outside the three ranges stores that byte in plain memory, or
returns plain memory's byte, and goes on with the other accesses, whatever they are; a step without accesses
changes nothing; one all of whose accesses lie outside completes and touches plain memory and what is returned to
the CPU core only (R70, R225). The queue of accesses and `rdOut` are the model's (log entries 6, 7), and that
nothing comes between two accesses (log entry 35). Rests on the spec's decision D26. -/
def Obligations.CpuStepOutsideTheRangesTouchesPlainMemoryOnly : Prop :=
  ∀ (s : State) (rest : List (List BusWord)), s.sched = .running →
    (s.cpuq = [] :: rest → exec .cpuStep s = .next { s with cpuq := rest })
    ∧ (∀ w ws, s.cpuq = (w :: ws) :: rest → decodeAddr s.map w.addr = .none →
      (w.isWrite = false →
        exec .cpuStep s
          = exec .cpuStep { s with cpuq := ws :: rest, rdOut := s.rdOut ++ [s.mem.read w.addr.toNat] })
      ∧ (w.isWrite = true →
        ∃ m, exec .cpuStep s = exec .cpuStep { s with cpuq := ws :: rest, mem := m }
          ∧ m.read w.addr.toNat = w.data ∧ ∀ b, b ≠ w.addr.toNat → m.read b = s.mem.read b))
    ∧ ∀ ws, s.cpuq = ws :: rest → (∀ w ∈ ws, decodeAddr s.map w.addr = .none) →
      ∃ m out, exec .cpuStep s = .next { s with cpuq := rest, mem := m, rdOut := s.rdOut ++ out }
        ∧ out.length = (ws.filter fun w => !w.isWrite).length
        ∧ ∀ a, (∀ w ∈ ws, w.isWrite = true → w.addr.toNat ≠ a) → m.read a = s.mem.read a

/-! ### Loader -/

/-- An image that lies outside the three ranges is copied into plain memory, byte by byte, and nothing else changes
but the auto-start cache, which the canonical address alone overwrites, also with none (R250, R251, R253). Rests
on the spec's decisions D24, D25. -/
def Obligations.LoadCopiesTheImage : Prop :=
  ∀ (s : State) (addr : Word16) (bytes : List Byte),
    addr.toNat + bytes.length ≤ 65536 →
    (∀ k, k < bytes.length → s.decode (BitVec.ofNat 16 (addr.toNat + k)) = .none) →
    (∀ n, scanAutostart s.par.autostartToken bytes = some n → n ≤ 65535) →
      ∃ m, exec (.load addr bytes) s
          = .next { s with
              mem := m
              autostart :=
                if addr = s.par.basicLoadAddr then
                  (scanAutostart s.par.autostartToken bytes).map (BitVec.ofNat 16)
                else s.autostart }
        ∧ (∀ k, k < bytes.length → some (m.read (addr.toNat + k)) = bytes[k]?)
        ∧ ∀ a, a < addr.toNat ∨ addr.toNat + bytes.length ≤ a → m.read a = s.mem.read a

/-- A loaded byte at a mapped address is the bus write of it, with every side effect, and a byte elsewhere is stored
in plain memory; the bytes go in ascending order, each decoded with the mapping that the bytes before it left,
until one is refused; the auto-start cache follows from the whole image at the canonical address alone (R68, R250,
R251, R252). That the number is checked after the writes is read from R250 (log entry 24), and that nothing comes
between two bytes is the model's choice (log entry 35). Rests on the spec's decisions D24, D25, D32. -/
def Obligations.LoadedByteAtAMappedAddressIsABusWrite : Prop :=
  ∀ (s : State) (addr : Word16) (b : Byte) (bs : List Byte), addr.toNat + (b :: bs).length ≤ 65536 →
    (∀ i, decodeBus s.map (busWord true addr b) = .op i →
      (addr ≠ s.par.basicLoadAddr → exec (.load addr [b]) s = exec i s)
      ∧ ((∀ t, exec i s ≠ .next t) → exec (.load addr (b :: bs)) s = exec i s))
    ∧ (decodeAddr s.map addr = .none →
      (s.mem.write addr.toNat b).read addr.toNat = b
        ∧ ∀ a, a ≠ addr.toNat → (s.mem.write addr.toNat b).read a = s.mem.read a)
    ∧ ∀ t, ByteStored s addr b t →
      (addr ≠ s.par.basicLoadAddr → addr + 1 ≠ s.par.basicLoadAddr →
        exec (.load addr (b :: bs)) s = exec (.load (addr + 1) bs) t)
      ∧ ∀ u, exec (.load (addr + 1) bs) t = .next u →
        (addr = s.par.basicLoadAddr → ∀ n, scanAutostart s.par.autostartToken (b :: bs) = some n → n ≤ 65535) →
          exec (.load addr (b :: bs)) s
            = .next { u with
                autostart :=
                  if addr = s.par.basicLoadAddr then
                    (scanAutostart s.par.autostartToken (b :: bs)).map (BitVec.ofNat 16)
                  else s.autostart }

/-- Where `LOAD` is refused: an image past the top of the address space, and, at the canonical address, an auto-start
number above 65535 in an image outside the ranges (R250, R252, R284). That the number is checked after the writes
is read from R250 (log entry 24). Rests on the spec's decisions D24, D25. -/
def Obligations.LoadRefusals : Prop :=
  ∀ (s : State) (addr : Word16) (bytes : List Byte),
    (65536 < addr.toNat + bytes.length → exec (.load addr bytes) s = .refused .loadWraps)
    ∧ (addr.toNat + bytes.length ≤ 65536 → addr = s.par.basicLoadAddr →
      (∀ k, k < bytes.length → s.decode (BitVec.ofNat 16 (addr.toNat + k)) = .none) →
      (∃ n, scanAutostart s.par.autostartToken bytes = some n ∧ 65535 < n) →
      exec (.load addr bytes) s = .refused .autostartRange)

/-- The scan finds the number after the first token of the first twelve bytes and any spaces; the digits may run past
the window and end at the first byte that is no digit (R251, R252). Rests on the spec's decision D24. -/
def Obligations.ScanReadsTheDecimalAfterTheToken : Prop :=
  ∀ (token : Byte) (front : List Byte) (spaces : Nat) (digits : List (Fin 10)) (tail : List Byte),
    front.length < 12 → token ∉ front → digits ≠ [] →
    (∀ b bs, tail = b :: bs → ¬(0x30 ≤ b.toNat ∧ b.toNat ≤ 0x39)) →
      scanAutostart token
          (front ++ token :: (List.replicate spaces 0x20
            ++ (digits.map (fun d => BitVec.ofNat 8 (0x30 + d.val)) ++ tail)))
        = some (Nat.ofDigits 10 (digits.map Fin.val).reverse)

/-- No token among the first twelve bytes, or no digit after the token and its spaces, caches no address (R251 to
R253). Rests on the spec's decision D24. -/
def Obligations.ScanWithoutTokenOrDigitsFindsNothing : Prop :=
  ∀ token : Byte,
    (∀ bytes : List Byte, token ∉ bytes.take 12 → scanAutostart token bytes = none)
    ∧ ∀ (front : List Byte) (spaces : Nat) (tail : List Byte), front.length < 12 → token ∉ front →
        (∀ b bs, tail = b :: bs → b ≠ 0x20 ∧ ¬(0x30 ≤ b.toNat ∧ b.toNat ≤ 0x39)) →
          scanAutostart token (front ++ token :: (List.replicate spaces 0x20 ++ tail)) = none

/-! ### Reset and the drives -/

/-- `RESET` on a console of at least 40 by 25 gives every piece of the block's state its reset value: the default
window centred, the pointers of the parameters, everything else zero, stopped and empty; VideoRAM has 1024 bytes;
keys, clock, CPU core and what is pending stay (R44, R310). The palette, the created bytes and the deadline are
free; what stays of the model's own fields is log entry 26. Rests on the spec's decisions D1, D15, D22, D31. -/
def Obligations.ResetGivesTheResetValues : Prop :=
  ∀ (s : State) (w h : Nat), 40 ≤ w → w ≤ 255 → 25 ≤ h → h ≤ 255 →
    (∀ x : Regs, x.winW = 40 → x.winH = 25 → x.textPtr = s.par.textPtrReset → x.colorPtr = s.par.colorPtrReset →
      (mapOf s.par x).valid = true ∧ (mapOf s.par x).disjoint = true) →
    ∃ t, exec (.reset w h) s = .next t
      ∧ t = { s with
          x :=
            { winX := BitVec.ofNat 8 ((w - 40) / 2), winY := BitVec.ofNat 8 ((h - 25) / 2), winW := 40, winH := 25
              textPtr := s.par.textPtrReset, colorPtr := s.par.colorPtrReset, charset := 0, freq := 0
              irqE := 0, irqR := 0, cFillOut := 0 }
          cw := w, ch := h, crw := w, crh := h, startT := s.now, sched := .stopped, haltReq := false
          cfgErr := none, autostart := none, conOut := [], irqOut := []
          pal := t.pal, chr := t.chr, col := t.col, nextUpdate := t.nextUpdate, mem := t.mem, freeCtr := t.freeCtr }
      ∧ t.chr.length = 1024 ∧ t.col.length = 1024
      ∧ ∀ a, ¬(s.map.textBase ≤ a ∧ a < s.map.textBase + s.size) →
          ¬(s.map.colorBase ≤ a ∧ a < s.map.colorBase + s.size) → t.mem.read a = s.mem.read a

/-- On any console of 1..255 by 1..255 `RESET` completes when the parameters give a valid and disjoint map; a console
outside that, an invalid map and an overlap are refused, in that order (R284, R310). Rests on the spec's decisions
D22, D31. -/
def Obligations.ResetCompletesOrIsRefused : Prop :=
  ∀ (s : State) (w h : Nat) (m : AddrMap),
    m = { regPage := s.par.regPage, palOff := s.par.palOff, textPtr := s.par.textPtrReset
          colorPtr := s.par.colorPtrReset, size := 1024 } →
    (¬(1 ≤ w ∧ w ≤ 255 ∧ 1 ≤ h ∧ h ≤ 255) → exec (.reset w h) s = .refused .consoleDims)
    ∧ (1 ≤ w ∧ w ≤ 255 ∧ 1 ≤ h ∧ h ≤ 255 →
        (m.valid = false → exec (.reset w h) s = .refused .resetMapInvalid)
        ∧ (m.valid = true → m.disjoint = false → exec (.reset w h) s = .refused .overlappingRanges)
        ∧ (m.valid = true → m.disjoint = true → ∃ t, exec (.reset w h) s = .next t ∧ t.map = m ∧ t.crw = w ∧ t.crh = h))

/-- Once halted, both drives have nothing to do: `run` returns at once and `update` only lets the environment act, its
sleep being bounded, and reports halted, not idle (R224, R230, R231). What the environment does in a call is an
argument (log entry 29). Rests on the spec's decisions D19, D35. -/
def Obligations.DrivesStopWhenHalted : Prop :=
  ∀ (s : State) (q : Nat) (k : Quantum) (sleep : List EnvEvent) (rounds : List Quantum), s.sched = .halted →
    runDrive q rounds s = .next s
    ∧ ∃ slept r keys, elapsed slept ≤ s.par.tSleep
        ∧ updateCall q k sleep s = .next r
        ∧ environment (k.rest ++ slept) s = .next r.state
        ∧ r.state = { s with
            now := s.now + elapsed k.rest + elapsed slept
            keyq := s.keyq ++ keys, cw := r.state.cw, ch := r.state.ch }
        ∧ r.halted = true ∧ r.ran = false
        ∧ (s.haltReq = true → r.cpuIdle = false)

/-- A halt that the CPU core writes in a quantum cuts the quantum short, however many units more the core had to run,
and the `update` call reports it, and not an idle core; after the halt the environment alone acts (R223, R229,
R231). The unit and what the environment does are the model's (log entry 29). Rests on the spec's decisions D20,
D35. -/
def Obligations.HaltEndsTheQuantum : Prop :=
  ∀ (s : State) (e : Executed) (q n : Nat) (units more : List (List EnvEvent)) (rest sleep : List EnvEvent),
    execute q units s = .next e → e.state.sched = .halted →
      execute (q + n) (units ++ more) s = .next e
      ∧ ∃ r keys, updateCall (q + n) { units := units ++ more, rest := rest } sleep s = .next r
          ∧ r.halted = true
          ∧ r.state = { e.state with
              now := r.state.now, keyq := e.state.keyq ++ keys, cw := r.state.cw, ch := r.state.ch }
          ∧ (e.state.haltReq = true → r.cpuIdle = false)

/-- `execute` runs units one after the other: while the machine runs, what the environment does before a unit, then
the unit, one CPU step, then the rest of the quantum, with a count one higher; none with nothing left to run or
outside Running; at most its quantum and at most as many as the core has to run: exactly that many when it leaves
the machine running, at least one when it can run any (R223, R230, R263, R269). What the core has to run is an
argument, a unit is one CPU step, and that none runs in Stopped is the model's (log entry 29). Rests on the spec's
decisions D19, D20, D26. -/
def Obligations.ExecuteCountsTheUnitsItRuns : Prop :=
  ∀ (s : State) (q : Nat) (units : List (List EnvEvent)),
    execute 0 units s = .next { state := s, cyclesRun := 0 }
    ∧ execute q [] s = .next { state := s, cyclesRun := 0 }
    ∧ (s.sched ≠ .running → execute q units s = .next { state := s, cyclesRun := 0 })
    ∧ (s.sched = .running →
        (∀ t e, exec .cpuStep s = .next t → execute q units t = .next e →
          execute (q + 1) ([] :: units) s = .next { state := e.state, cyclesRun := e.cyclesRun + 1 })
        ∧ (∀ dt vs, execute (q + 1) ((.advance dt :: vs) :: units) s
            = execute (q + 1) (vs :: units) { s with now := s.now + dt })
        ∧ (∀ w h vs, execute (q + 1) ((.resize w h :: vs) :: units) s
            = execute (q + 1) (vs :: units) { s with cw := w, ch := h })
        ∧ ∀ b vs t, exec (.key b) s = .next t →
            execute (q + 1) ((.key b :: vs) :: units) s = execute (q + 1) (vs :: units) t)
    ∧ ∀ e, execute q units s = .next e →
        e.cyclesRun ≤ min q units.length
        ∧ (e.state.sched = .running → e.cyclesRun = min q units.length)
        ∧ (s.sched = .running → 0 < q → units ≠ [] → 0 < e.cyclesRun)

/-- An `update` call reports the two status outputs apart: halted when the machine is halted, idle when its quantum
ran zero units and no halt was signalled, which is never while it reports a halted machine that meets the
invariant; and whether any unit ran. With a tick due after its quantum it takes it; with an idle core and no tick
due it lets the environment act only, its sleep being bounded and no shorter than asked within that bound (R229,
R230, R231, R263). What the environment does in a call is an argument (log entry 29). Rests on the spec's
decisions D19, D35. -/
def Obligations.UpdateReportsHaltedAndIdleApart : Prop :=
  (∀ (s : State) (q : Nat) (k : Quantum) (sleep : List EnvEvent) (e : Executed) (r : UpdateReport),
    execute q k.units s = .next e → updateCall q k sleep s = .next r →
      (r.halted = true ↔ r.state.sched = .halted)
      ∧ (r.cpuIdle = true ↔ e.cyclesRun = 0 ∧ r.state.haltReq = false)
      ∧ (r.ran = true ↔ 0 < e.cyclesRun)
      ∧ ((r.state.sched = .halted → r.state.haltReq = true) → ¬(r.halted = true ∧ r.cpuIdle = true))
      ∧ ∀ u t, environment k.rest e.state = .next u → u.sched = .running → u.nextUpdate ≤ u.now →
          exec .tick u = .next t → r.state = t)
  ∧ ∀ (s : State) (q : Nat) (rest sleep : List EnvEvent), s.sched = .running → s.haltReq = false →
      s.now + elapsed rest < s.nextUpdate →
      ∃ t slept, environment (rest ++ slept) s = .next t
        ∧ elapsed slept = min (elapsed sleep) s.par.tSleep
        ∧ (elapsed sleep ≤ s.par.tSleep → slept = sleep)
        ∧ t.now = s.now + elapsed rest + elapsed slept
        ∧ updateCall q { units := [], rest := rest } sleep s
            = .next { state := t, halted := false, cpuIdle := true, ran := false }

/-- A round of `run` in Running goes on, after its quantum and what the environment does then, from the tick when the
clock has reached the deadline, and from where it stands when not; with no tick due and an idle core the
environment alone acts (R228, R230, R269). What the environment does is an argument (log entry 29). Rests on the
spec's decisions D19, D26. -/
def Obligations.RunTakesTheTickWhenDue : Prop :=
  ∀ (s : State) (q : Nat) (k : Quantum) (rounds : List Quantum) (e : Executed) (u : State), s.sched = .running →
    execute q k.units s = .next e → environment k.rest e.state = .next u →
      (∀ t, u.sched = .running → u.nextUpdate ≤ u.now → exec .tick u = .next t →
        runDrive q (k :: rounds) s = runDrive q rounds t)
      ∧ (u.now < u.nextUpdate → runDrive q (k :: rounds) s = runDrive q rounds u)
      ∧ (u.sched = .halted → runDrive q (k :: rounds) s = .next u)
      ∧ (k.units = [] → ∃ keys w h, u = { s with
          now := s.now + elapsed k.rest, keyq := s.keyq ++ keys, cw := w, ch := h })
end

