-- ==== Sys2Proof/Laws/Decode.lean ====
section
/-! SUPPORT. The fields of a bus transaction and the decoding of addresses. -/

namespace Sys2Proof

@[simp] theorem isWrite_busWord (rw_ : Bool) (a : Word16) (v : Byte) : (busWord rw_ a v).isWrite = rw_ := by
  unfold BusWord.isWrite busWord
  rw [BitVec.getLsbD_append, BitVec.getLsbD_append]
  cases rw_ <;> simp

@[simp] theorem addr_busWord (rw_ : Bool) (a : Word16) (v : Byte) : (busWord rw_ a v).addr = a := by
  unfold BusWord.addr busWord
  ext i hi
  rw [BitVec.getElem_extractLsb', BitVec.getLsbD_append, BitVec.getLsbD_append]
  simp [hi, BitVec.getLsbD_eq_getElem]

@[simp] theorem data_busWord (rw_ : Bool) (a : Word16) (v : Byte) : (busWord rw_ a v).data = v := by
  unfold BusWord.data busWord
  ext i hi
  rw [BitVec.getElem_extractLsb', BitVec.getLsbD_append]
  simp [hi, BitVec.getLsbD_eq_getElem]

/-- A transaction is its three fields (R80). -/
theorem busWord_fields (w : BusWord) : busWord w.isWrite w.addr w.data = w := by
  unfold BusWord.isWrite BusWord.addr BusWord.data busWord
  apply BitVec.eq_of_getLsbD_eq
  intro i hi
  rw [BitVec.getLsbD_append, BitVec.getLsbD_append, BitVec.getLsbD_extractLsb', BitVec.getLsbD_extractLsb']
  by_cases h8 : i < 8
  · simp [h8]
  · by_cases h16 : i - 8 < 16
    · simp [h8, h16, show 8 + (i - 8) = i by omega]
    · have : i = 24 := by omega
      subst this; simp

@[simp] theorem page_append (p off : Byte) : (p ++ off : Word16).extractLsb' 8 8 = p := by
  ext i hi
  rw [BitVec.getElem_extractLsb', BitVec.getLsbD_append]
  simp [BitVec.getLsbD_eq_getElem, hi]

@[simp] theorem off_append (p off : Byte) : (p ++ off : Word16).extractLsb' 0 8 = off := by
  ext i hi
  rw [BitVec.getElem_extractLsb', BitVec.getLsbD_append]
  simp [BitVec.getLsbD_eq_getElem, hi]

/-- An address is its page and its offset (R80). -/
theorem page_off (a : Word16) : (a.extractLsb' 8 8 ++ a.extractLsb' 0 8 : Word16) = a := by
  apply BitVec.eq_of_getLsbD_eq
  intro i hi
  rw [BitVec.getLsbD_append, BitVec.getLsbD_extractLsb', BitVec.getLsbD_extractLsb']
  by_cases h8 : i < 8
  · simp [h8]
  · simp [h8, show i - 8 < 8 by omega, show 8 + (i - 8) = i by omega]

/-- The page of an address as a number. -/
theorem page_toNat (a : Word16) : (a.extractLsb' 8 8).toNat = a.toNat / 256 := by
  have := a.isLt
  simp [BitVec.extractLsb'_toNat, Nat.shiftRight_eq_div_pow]; omega

/-- The offset of an address as a number. -/
theorem off_toNat (a : Word16) : (a.extractLsb' 0 8).toNat = a.toNat % 256 := by
  simp [BitVec.extractLsb'_toNat]

/-- An address on the register page decodes to its offset (R150). -/
theorem decodeAddr_regPage (m : AddrMap) (off : Byte) : decodeAddr m (m.regPage ++ off) = .reg off := by
  simp [decodeAddr]

/-- The register page shares no address with a range that is disjoint from it (R158). -/
theorem page_ne_of_apart {m : AddrMap} {base : Nat} {a : Word16} (h : rangesApart m.regBase 256 base m.size = true)
    (h₁ : base ≤ a.toNat) (h₂ : a.toNat < base + m.size) : a.extractLsb' 8 8 ≠ m.regPage := by
  intro hp
  have := congrArg BitVec.toNat hp
  rw [page_toNat] at this
  simp only [rangesApart, Bool.or_eq_true, decide_eq_true_eq] at h
  unfold AddrMap.regBase at h
  omega

/-- A text offset's address decodes to the offset (R151). -/
theorem decodeAddr_text {m : AddrMap} (hv : m.valid = true) (hd : m.disjoint = true) {o : Nat} (ho : o < m.size) :
    decodeAddr m (textAddr m o) = .text o := by
  simp only [AddrMap.valid, Bool.and_eq_true, decide_eq_true_eq] at hv
  simp only [AddrMap.disjoint, Bool.and_eq_true] at hd
  have ha : (textAddr m o).toNat = m.textBase + o := by
    simp [textAddr, BitVec.toNat_ofNat]; omega
  unfold decodeAddr
  rw [if_neg (page_ne_of_apart hd.1.2 (by omega) (by omega)), if_pos (by omega), ha]
  simp

/-- A colour offset's address decodes to the offset (R151). -/
theorem decodeAddr_color {m : AddrMap} (hv : m.valid = true) (hd : m.disjoint = true) {o : Nat} (ho : o < m.size) :
    decodeAddr m (colorAddr m o) = .color o := by
  simp only [AddrMap.valid, Bool.and_eq_true, decide_eq_true_eq] at hv
  simp only [AddrMap.disjoint, Bool.and_eq_true] at hd
  have ha : (colorAddr m o).toNat = m.colorBase + o := by
    simp [colorAddr, BitVec.toNat_ofNat]; omega
  have hx := hd.1.1
  simp [rangesApart] at hx
  unfold decodeAddr
  rw [if_neg (page_ne_of_apart hd.2 (by omega) (by omega)), if_neg (by omega), if_pos (by omega), ha]
  simp

/-- What an address can decode to, with the range it lies in (R150). -/
theorem decodeAddr_cases (m : AddrMap) (a : Word16) :
    (a.extractLsb' 8 8 = m.regPage ∧ decodeAddr m a = .reg (a.extractLsb' 0 8))
      ∨ (a.extractLsb' 8 8 ≠ m.regPage ∧ m.textBase ≤ a.toNat ∧ a.toNat < m.textBase + m.size
          ∧ decodeAddr m a = .text (a.toNat - m.textBase))
      ∨ (a.extractLsb' 8 8 ≠ m.regPage ∧ ¬(m.textBase ≤ a.toNat ∧ a.toNat < m.textBase + m.size)
          ∧ m.colorBase ≤ a.toNat ∧ a.toNat < m.colorBase + m.size ∧ decodeAddr m a = .color (a.toNat - m.colorBase))
      ∨ (a.extractLsb' 8 8 ≠ m.regPage ∧ ¬(m.textBase ≤ a.toNat ∧ a.toNat < m.textBase + m.size)
          ∧ ¬(m.colorBase ≤ a.toNat ∧ a.toNat < m.colorBase + m.size) ∧ decodeAddr m a = .none) := by
  unfold decodeAddr
  by_cases h1 : a.extractLsb' 8 8 = m.regPage
  · exact .inl ⟨h1, by rw [if_pos h1]⟩
  by_cases h2 : m.textBase ≤ a.toNat ∧ a.toNat < m.textBase + m.size
  · exact .inr (.inl ⟨h1, h2.1, h2.2, by rw [if_neg h1, if_pos h2]⟩)
  by_cases h3 : m.colorBase ≤ a.toNat ∧ a.toNat < m.colorBase + m.size
  · exact .inr (.inr (.inl ⟨h1, h2, h3.1, h3.2, by rw [if_neg h1, if_neg h2, if_pos h3]⟩))
  · exact .inr (.inr (.inr ⟨h1, h2, h3, by rw [if_neg h1, if_neg h2, if_neg h3]⟩))

/-- MapValid as bounds (R157). -/
theorem valid_iff (m : AddrMap) :
    m.valid = true ↔ m.textBase + m.size ≤ 65536 ∧ m.colorBase + m.size ≤ 65536 := by simp [AddrMap.valid]

/-- A read transaction on the register page (R82). -/
theorem decodeBus_regRead (m : AddrMap) (off v : Byte) :
    decodeBus m (busWord false (m.regPage ++ off) v) = .op (decodeRegRead m off) := by
  unfold decodeBus; simp [decodeAddr_regPage]

/-- A write transaction on the register page (R82). -/
theorem decodeBus_regWrite (m : AddrMap) (off v : Byte) :
    decodeBus m (busWord true (m.regPage ++ off) v) = .op (decodeRegWrite m off v) := by
  unfold decodeBus; simp [decodeAddr_regPage]

/-- A read above the 17 registers: palette, else unknown (R82, R88). -/
theorem decodeRegRead_unnamed (m : AddrMap) {off : Byte} (h : 0x10 < off.toNat) :
    decodeRegRead m off = if m.inPalette off then .rdPal (off.toNat - m.palOff.toNat) else .rdUnknown off := by
  unfold decodeRegRead; split <;> first | rfl | omega

/-- A write above the 17 registers: palette, else unknown (R82, R88). -/
theorem decodeRegWrite_unnamed (m : AddrMap) {off : Byte} (h : 0x10 < off.toNat) (v : Byte) :
    decodeRegWrite m off v = if m.inPalette off then .wrPal (off.toNat - m.palOff.toNat) v else .wrUnknown off v := by
  unfold decodeRegWrite; split <;> first | rfl | omega

/-- A palette offset does not wrap (R85). -/
theorem palOffset_toNat {m : AddrMap} (h : m.palOff.toNat ≤ 0xA0) {i : Nat} (hi : i < 96) :
    (palOffset m i).toNat = m.palOff.toNat + i := by
  simp [palOffset, BitVec.toNat_ofNat]; omega

end Sys2Proof
end

