-- ==== Sys2Proof/Laws/Memory.lean ====
section
/-! SUPPORT. Plain memory: reading after a write and after a departure, and the canonical form that every memory
operation keeps. -/

namespace Sys2Proof.Machine

theorem lookupCell_insertCell_same (a : Nat) (v : Byte) (cells : List Host.Cell) :
    lookupCell a (insertCell a v cells) = some v := by
  induction cells with
  | nil => simp [insertCell, lookupCell]
  | cons c cs ih =>
    unfold insertCell
    split
    · simp [lookupCell]
    · split
      · simp [lookupCell]
      · rename_i h; simp [lookupCell, h, ih]

theorem lookupCell_insertCell_other {a b : Nat} (h : b ≠ a) (v : Byte) (cells : List Host.Cell) :
    lookupCell b (insertCell a v cells) = lookupCell b cells := by
  induction cells with
  | nil => simp [insertCell, lookupCell, h.symm]
  | cons c cs ih =>
    unfold insertCell
    split
    · simp [lookupCell, h.symm]
    · split
      · rename_i h2; simp [lookupCell, h.symm, h2]
      · simp [lookupCell, ih]

theorem lookupCell_filter (p : Nat → Bool) (a : Nat) (cells : List Host.Cell) :
    lookupCell a (cells.filter fun c => p c.1) = if p a then lookupCell a cells else none := by
  induction cells with
  | nil => simp [lookupCell]
  | cons c cs ih =>
    by_cases hp : p c.1 <;> by_cases hc : c.1 = a <;> simp_all [lookupCell]

/-- The byte written is the byte read. -/
theorem read_write_same (m : Memory) (a : Nat) (v : Byte) : (m.write a v).read a = v := by
  unfold Memory.write
  split
  · rename_i h
    obtain ⟨rfl, h⟩ := h
    have h0 : m.unlisted a = 0 := by
      unfold Memory.unlisted
      rw [Option.isNone_iff_eq_none.mp h]
    have hl : lookupCell a (eraseCell a m.cells) = none := by
      have := lookupCell_filter (fun n => decide (n ≠ a)) a m.cells
      simpa [eraseCell] using this
    show (lookupCell a (eraseCell a m.cells)).getD (m.unlisted a) = 0
    rw [hl, h0]; rfl
  · simp [Memory.read, lookupCell_insertCell_same]

/-- A write leaves every other address as it reads. -/
theorem read_write_other (m : Memory) {a b : Nat} (h : b ≠ a) (v : Byte) : (m.write a v).read b = m.read b := by
  unfold Memory.write
  split
  · have hl := lookupCell_filter (fun n => decide (n ≠ a)) b m.cells
    simp only [ne_eq, h, not_false_eq_true, decide_true, if_true] at hl
    show (lookupCell b (eraseCell a m.cells)).getD (m.unlisted b) = _
    unfold eraseCell
    rw [show (fun c : Host.Cell => decide (c.1 ≠ a)) = fun c => decide (¬ c.1 = a) from rfl, hl]; rfl
  · show (lookupCell b (insertCell a v m.cells)).getD (m.unlisted b) = _
    rw [lookupCell_insertCell_other h]; rfl

/-- An address of a range that left reads a free value of that departure (R159, U8). -/
theorem read_leave_inside (m : Memory) {base len gen a : Nat} (h₁ : base ≤ a) (h₂ : a < base + len) :
    (m.leave base len gen).read a = Config.memLeft gen a := by
  have hc : LeftRange.covers a ⟨base, len, gen⟩ = true := by simp [LeftRange.covers, h₁, h₂]
  have hl := lookupCell_filter (fun n => !(LeftRange.covers n ⟨base, len, gen⟩)) a m.cells
  simp only [hc, Bool.not_true, Bool.false_eq_true, if_false] at hl
  simp [Memory.read, Memory.leave, Memory.unlisted, hl, hc]

/-- An address outside the range that left reads as before. -/
theorem read_leave_outside (m : Memory) {base len gen a : Nat} (h : a < base ∨ base + len ≤ a) :
    (m.leave base len gen).read a = m.read a := by
  have hc : LeftRange.covers a ⟨base, len, gen⟩ = false := by
    simp only [LeftRange.covers]; rcases h with h | h <;> simp <;> omega
  have hl := lookupCell_filter (fun n => !(LeftRange.covers n ⟨base, len, gen⟩)) a m.cells
  simp only [hc, Bool.not_false, if_true] at hl
  simp [Memory.read, Memory.leave, Memory.unlisted, hl, hc]

theorem wf_iff (m : Memory) : m.wf = true ↔ (m.cells.map Prod.fst).Pairwise (· < ·) ∧
    (∀ c ∈ m.cells, c.1 < 65536) ∧ ∀ c ∈ m.cells, ¬(c.2 = 0 ∧ m.plainZero c.1 = true) := by
  simp [Memory.wf, and_assoc, imp_iff_not_or]

theorem mem_insertCell {a : Nat} {v : Byte} {cells : List Host.Cell} {c : Host.Cell}
    (h : c ∈ insertCell a v cells) : c = (a, v) ∨ c ∈ cells := by
  induction cells with
  | nil => simpa [insertCell] using h
  | cons d ds ih =>
    unfold insertCell at h
    split at h
    · simpa using h
    · split at h
      · rcases List.mem_cons.mp h with h | h
        · exact .inl h
        · exact .inr (List.mem_cons_of_mem _ h)
      · rcases List.mem_cons.mp h with h | h
        · exact .inr (h ▸ List.mem_cons_self)
        · exact (ih h).imp id (List.mem_cons_of_mem _)

theorem pairwise_insertCell {a : Nat} {v : Byte} {cells : List Host.Cell}
    (h : (cells.map Prod.fst).Pairwise (· < ·)) : ((insertCell a v cells).map Prod.fst).Pairwise (· < ·) := by
  induction cells with
  | nil => simp [insertCell]
  | cons d ds ih =>
    simp only [List.map_cons, List.pairwise_cons] at h
    unfold insertCell
    split
    · rename_i hlt
      simp only [List.map_cons, List.pairwise_cons, List.mem_cons, forall_eq_or_imp]
      exact ⟨⟨hlt, fun b hb => lt_trans hlt (h.1 b hb)⟩, h.1, h.2⟩
    · split
      · rename_i heq
        simp only [List.map_cons, List.pairwise_cons]
        exact ⟨heq ▸ h.1, h.2⟩
      · rename_i hge hne
        simp only [List.map_cons, List.pairwise_cons]
        refine ⟨fun b hb => ?_, ih h.2⟩
        obtain ⟨c, hc, rfl⟩ := List.mem_map.mp hb
        rcases mem_insertCell hc with rfl | hc
        · show d.1 < a; omega
        · exact h.1 _ (List.mem_map_of_mem hc)

theorem pairwise_filter {p : Host.Cell → Bool} {cells : List Host.Cell}
    (h : (cells.map Prod.fst).Pairwise (· < ·)) : ((cells.filter p).map Prod.fst).Pairwise (· < ·) :=
  h.sublist (List.filter_sublist.map _)

/-- A write keeps the canonical form. -/
theorem wf_write {m : Memory} (h : m.wf = true) {a : Nat} (ha : a < 65536) (v : Byte) : (m.write a v).wf = true := by
  rw [wf_iff] at h ⊢
  obtain ⟨h₁, h₂, h₃⟩ := h
  unfold Memory.write
  split
  · exact ⟨pairwise_filter h₁, fun c hc => h₂ c (List.mem_of_mem_filter hc), fun c hc => h₃ c (List.mem_of_mem_filter hc)⟩
  · rename_i hv
    refine ⟨pairwise_insertCell h₁, fun c hc => ?_, fun c hc => ?_⟩
    · rcases mem_insertCell hc with rfl | hc
      · exact ha
      · exact h₂ c hc
    · rcases mem_insertCell hc with rfl | hc
      · exact hv
      · exact h₃ c hc

/-- A departure keeps the canonical form. -/
theorem wf_leave {m : Memory} (h : m.wf = true) (base len gen : Nat) : (m.leave base len gen).wf = true := by
  rw [wf_iff] at h ⊢
  obtain ⟨h₁, h₂, h₃⟩ := h
  refine ⟨pairwise_filter h₁, fun c hc => h₂ c (List.mem_of_mem_filter hc), fun c hc hz => ?_⟩
  refine h₃ c (List.mem_of_mem_filter hc) ⟨hz.1, ?_⟩
  have hnc : LeftRange.covers c.1 ⟨base, len, gen⟩ = false := by simpa using (List.mem_filter.mp hc).2
  simpa [Memory.plainZero, Memory.leave, List.find?_cons, hnc] using hz.2

theorem wf_leaveIf {m : Memory} (h : m.wf = true) (moved : Bool) (base len gen : Nat) :
    (leaveIf moved base len gen m).wf = true := by
  unfold leaveIf
  split
  · exact wf_leave h _ _ _
  · exact h

/-- A change of map keeps the canonical form. -/
theorem wf_leaveMap {m : Memory} (h : m.wf = true) (old new : AddrMap) (gen : Nat) :
    (leaveMap old new gen m).wf = true := wf_leaveIf (wf_leaveIf h _ _ _ _) _ _ _ _

/-- A map that stays leaves plain memory as it is. -/
theorem leaveMap_same {old new : AddrMap} (ht : old.textPtr = new.textPtr) (hc : old.colorPtr = new.colorPtr)
    (hs : old.size = new.size) (gen : Nat) (m : Memory) : leaveMap old new gen m = m := by
  simp [leaveMap, leaveIf, ht, hc, hs]

/-- Addresses outside both old ranges read as before across a change of map. -/
theorem read_leaveMap_outside {old new : AddrMap} {gen a : Nat} (m : Memory)
    (ht : a < old.textBase ∨ old.textBase + old.size ≤ a) (hc : a < old.colorBase ∨ old.colorBase + old.size ≤ a) :
    (leaveMap old new gen m).read a = m.read a := by
  have step : ∀ (b : Bool) (base : Nat) (m' : Memory), (a < base ∨ base + old.size ≤ a) →
      (leaveIf b base old.size gen m').read a = m'.read a := by
    intro b base m' h
    unfold leaveIf
    split
    · exact read_leave_outside m' h
    · rfl
  unfold leaveMap
  rw [step _ _ _ hc, step _ _ _ ht]

end Sys2Proof.Machine
end

