-- ==== Sys2Proof/Laws/State.lean ====
section
/-! SUPPORT. One lemma per field for each shared update of the state, so that no proof unfolds a record update. -/

namespace Sys2Proof.Machine

@[simp] theorem emit_par (cs : List ConCmd) (s : State) : (emit cs s).par = s.par := rfl
@[simp] theorem emit_x (cs : List ConCmd) (s : State) : (emit cs s).x = s.x := rfl
@[simp] theorem emit_pal (cs : List ConCmd) (s : State) : (emit cs s).pal = s.pal := rfl
@[simp] theorem emit_chr (cs : List ConCmd) (s : State) : (emit cs s).chr = s.chr := rfl
@[simp] theorem emit_col (cs : List ConCmd) (s : State) : (emit cs s).col = s.col := rfl
@[simp] theorem emit_crw (cs : List ConCmd) (s : State) : (emit cs s).crw = s.crw := rfl
@[simp] theorem emit_crh (cs : List ConCmd) (s : State) : (emit cs s).crh = s.crh := rfl
@[simp] theorem emit_startT (cs : List ConCmd) (s : State) : (emit cs s).startT = s.startT := rfl
@[simp] theorem emit_nextUpdate (cs : List ConCmd) (s : State) : (emit cs s).nextUpdate = s.nextUpdate := rfl
@[simp] theorem emit_sched (cs : List ConCmd) (s : State) : (emit cs s).sched = s.sched := rfl
@[simp] theorem emit_haltReq (cs : List ConCmd) (s : State) : (emit cs s).haltReq = s.haltReq := rfl
@[simp] theorem emit_cfgErr (cs : List ConCmd) (s : State) : (emit cs s).cfgErr = s.cfgErr := rfl
@[simp] theorem emit_autostart (cs : List ConCmd) (s : State) : (emit cs s).autostart = s.autostart := rfl
@[simp] theorem emit_conOut (cs : List ConCmd) (s : State) : (emit cs s).conOut = s.conOut ++ cs := rfl
@[simp] theorem emit_irqOut (cs : List ConCmd) (s : State) : (emit cs s).irqOut = s.irqOut := rfl
@[simp] theorem emit_cw (cs : List ConCmd) (s : State) : (emit cs s).cw = s.cw := rfl
@[simp] theorem emit_ch (cs : List ConCmd) (s : State) : (emit cs s).ch = s.ch := rfl
@[simp] theorem emit_now (cs : List ConCmd) (s : State) : (emit cs s).now = s.now := rfl
@[simp] theorem emit_keyq (cs : List ConCmd) (s : State) : (emit cs s).keyq = s.keyq := rfl
@[simp] theorem emit_mem (cs : List ConCmd) (s : State) : (emit cs s).mem = s.mem := rfl
@[simp] theorem emit_pc (cs : List ConCmd) (s : State) : (emit cs s).pc = s.pc := rfl
@[simp] theorem emit_rdOut (cs : List ConCmd) (s : State) : (emit cs s).rdOut = s.rdOut := rfl
@[simp] theorem emit_inbox (cs : List ConCmd) (s : State) : (emit cs s).inbox = s.inbox := rfl
@[simp] theorem emit_cpuq (cs : List ConCmd) (s : State) : (emit cs s).cpuq = s.cpuq := rfl
@[simp] theorem emit_freeCtr (cs : List ConCmd) (s : State) : (emit cs s).freeCtr = s.freeCtr := rfl

@[simp] theorem giveByte_par (v : Byte) (s : State) : (giveByte v s).par = s.par := rfl
@[simp] theorem giveByte_x (v : Byte) (s : State) : (giveByte v s).x = s.x := rfl
@[simp] theorem giveByte_pal (v : Byte) (s : State) : (giveByte v s).pal = s.pal := rfl
@[simp] theorem giveByte_chr (v : Byte) (s : State) : (giveByte v s).chr = s.chr := rfl
@[simp] theorem giveByte_col (v : Byte) (s : State) : (giveByte v s).col = s.col := rfl
@[simp] theorem giveByte_crw (v : Byte) (s : State) : (giveByte v s).crw = s.crw := rfl
@[simp] theorem giveByte_crh (v : Byte) (s : State) : (giveByte v s).crh = s.crh := rfl
@[simp] theorem giveByte_startT (v : Byte) (s : State) : (giveByte v s).startT = s.startT := rfl
@[simp] theorem giveByte_nextUpdate (v : Byte) (s : State) : (giveByte v s).nextUpdate = s.nextUpdate := rfl
@[simp] theorem giveByte_sched (v : Byte) (s : State) : (giveByte v s).sched = s.sched := rfl
@[simp] theorem giveByte_haltReq (v : Byte) (s : State) : (giveByte v s).haltReq = s.haltReq := rfl
@[simp] theorem giveByte_cfgErr (v : Byte) (s : State) : (giveByte v s).cfgErr = s.cfgErr := rfl
@[simp] theorem giveByte_autostart (v : Byte) (s : State) : (giveByte v s).autostart = s.autostart := rfl
@[simp] theorem giveByte_conOut (v : Byte) (s : State) : (giveByte v s).conOut = s.conOut := rfl
@[simp] theorem giveByte_irqOut (v : Byte) (s : State) : (giveByte v s).irqOut = s.irqOut := rfl
@[simp] theorem giveByte_cw (v : Byte) (s : State) : (giveByte v s).cw = s.cw := rfl
@[simp] theorem giveByte_ch (v : Byte) (s : State) : (giveByte v s).ch = s.ch := rfl
@[simp] theorem giveByte_now (v : Byte) (s : State) : (giveByte v s).now = s.now := rfl
@[simp] theorem giveByte_keyq (v : Byte) (s : State) : (giveByte v s).keyq = s.keyq := rfl
@[simp] theorem giveByte_mem (v : Byte) (s : State) : (giveByte v s).mem = s.mem := rfl
@[simp] theorem giveByte_pc (v : Byte) (s : State) : (giveByte v s).pc = s.pc := rfl
@[simp] theorem giveByte_rdOut (v : Byte) (s : State) : (giveByte v s).rdOut = s.rdOut ++ [v] := rfl
@[simp] theorem giveByte_inbox (v : Byte) (s : State) : (giveByte v s).inbox = s.inbox := rfl
@[simp] theorem giveByte_cpuq (v : Byte) (s : State) : (giveByte v s).cpuq = s.cpuq := rfl
@[simp] theorem giveByte_freeCtr (v : Byte) (s : State) : (giveByte v s).freeCtr = s.freeCtr := rfl

@[simp] theorem drawn_par (s : State) : (s.drawn).par = s.par := rfl
@[simp] theorem drawn_x (s : State) : (s.drawn).x = s.x := rfl
@[simp] theorem drawn_pal (s : State) : (s.drawn).pal = s.pal := rfl
@[simp] theorem drawn_chr (s : State) : (s.drawn).chr = s.chr := rfl
@[simp] theorem drawn_col (s : State) : (s.drawn).col = s.col := rfl
@[simp] theorem drawn_crw (s : State) : (s.drawn).crw = s.crw := rfl
@[simp] theorem drawn_crh (s : State) : (s.drawn).crh = s.crh := rfl
@[simp] theorem drawn_startT (s : State) : (s.drawn).startT = s.startT := rfl
@[simp] theorem drawn_nextUpdate (s : State) : (s.drawn).nextUpdate = s.nextUpdate := rfl
@[simp] theorem drawn_sched (s : State) : (s.drawn).sched = s.sched := rfl
@[simp] theorem drawn_haltReq (s : State) : (s.drawn).haltReq = s.haltReq := rfl
@[simp] theorem drawn_cfgErr (s : State) : (s.drawn).cfgErr = s.cfgErr := rfl
@[simp] theorem drawn_autostart (s : State) : (s.drawn).autostart = s.autostart := rfl
@[simp] theorem drawn_conOut (s : State) : (s.drawn).conOut = s.conOut := rfl
@[simp] theorem drawn_irqOut (s : State) : (s.drawn).irqOut = s.irqOut := rfl
@[simp] theorem drawn_cw (s : State) : (s.drawn).cw = s.cw := rfl
@[simp] theorem drawn_ch (s : State) : (s.drawn).ch = s.ch := rfl
@[simp] theorem drawn_now (s : State) : (s.drawn).now = s.now := rfl
@[simp] theorem drawn_keyq (s : State) : (s.drawn).keyq = s.keyq := rfl
@[simp] theorem drawn_mem (s : State) : (s.drawn).mem = s.mem := rfl
@[simp] theorem drawn_pc (s : State) : (s.drawn).pc = s.pc := rfl
@[simp] theorem drawn_rdOut (s : State) : (s.drawn).rdOut = s.rdOut := rfl
@[simp] theorem drawn_inbox (s : State) : (s.drawn).inbox = s.inbox := rfl
@[simp] theorem drawn_cpuq (s : State) : (s.drawn).cpuq = s.cpuq := rfl
@[simp] theorem drawn_freeCtr (s : State) : (s.drawn).freeCtr = s.freeCtr + 1 := rfl

@[simp] theorem storeReg_par (r : RegId) (v : Byte) (s : State) : (storeReg r v s).par = s.par := rfl
@[simp] theorem storeReg_x (r : RegId) (v : Byte) (s : State) : (storeReg r v s).x = s.x.set r v := rfl
@[simp] theorem storeReg_pal (r : RegId) (v : Byte) (s : State) : (storeReg r v s).pal = s.pal := rfl
@[simp] theorem storeReg_chr (r : RegId) (v : Byte) (s : State) : (storeReg r v s).chr = s.chr := rfl
@[simp] theorem storeReg_col (r : RegId) (v : Byte) (s : State) : (storeReg r v s).col = s.col := rfl
@[simp] theorem storeReg_crw (r : RegId) (v : Byte) (s : State) : (storeReg r v s).crw = s.crw := rfl
@[simp] theorem storeReg_crh (r : RegId) (v : Byte) (s : State) : (storeReg r v s).crh = s.crh := rfl
@[simp] theorem storeReg_startT (r : RegId) (v : Byte) (s : State) : (storeReg r v s).startT = s.startT := rfl
@[simp] theorem storeReg_nextUpdate (r : RegId) (v : Byte) (s : State) : (storeReg r v s).nextUpdate = s.nextUpdate := rfl
@[simp] theorem storeReg_sched (r : RegId) (v : Byte) (s : State) : (storeReg r v s).sched = s.sched := rfl
@[simp] theorem storeReg_haltReq (r : RegId) (v : Byte) (s : State) : (storeReg r v s).haltReq = s.haltReq := rfl
@[simp] theorem storeReg_cfgErr (r : RegId) (v : Byte) (s : State) : (storeReg r v s).cfgErr = s.cfgErr := rfl
@[simp] theorem storeReg_autostart (r : RegId) (v : Byte) (s : State) : (storeReg r v s).autostart = s.autostart := rfl
@[simp] theorem storeReg_conOut (r : RegId) (v : Byte) (s : State) : (storeReg r v s).conOut = s.conOut := rfl
@[simp] theorem storeReg_irqOut (r : RegId) (v : Byte) (s : State) : (storeReg r v s).irqOut = s.irqOut := rfl
@[simp] theorem storeReg_cw (r : RegId) (v : Byte) (s : State) : (storeReg r v s).cw = s.cw := rfl
@[simp] theorem storeReg_ch (r : RegId) (v : Byte) (s : State) : (storeReg r v s).ch = s.ch := rfl
@[simp] theorem storeReg_now (r : RegId) (v : Byte) (s : State) : (storeReg r v s).now = s.now := rfl
@[simp] theorem storeReg_keyq (r : RegId) (v : Byte) (s : State) : (storeReg r v s).keyq = s.keyq := rfl
@[simp] theorem storeReg_mem (r : RegId) (v : Byte) (s : State) : (storeReg r v s).mem = s.mem := rfl
@[simp] theorem storeReg_pc (r : RegId) (v : Byte) (s : State) : (storeReg r v s).pc = s.pc := rfl
@[simp] theorem storeReg_rdOut (r : RegId) (v : Byte) (s : State) : (storeReg r v s).rdOut = s.rdOut := rfl
@[simp] theorem storeReg_inbox (r : RegId) (v : Byte) (s : State) : (storeReg r v s).inbox = s.inbox := rfl
@[simp] theorem storeReg_cpuq (r : RegId) (v : Byte) (s : State) : (storeReg r v s).cpuq = s.cpuq := rfl
@[simp] theorem storeReg_freeCtr (r : RegId) (v : Byte) (s : State) : (storeReg r v s).freeCtr = s.freeCtr := rfl

@[simp] theorem raiseConfigError_par (k : CfgKind) (r : RegId) (v : Byte) (s : State) : (raiseConfigError k r v s).par = s.par := rfl
@[simp] theorem raiseConfigError_x (k : CfgKind) (r : RegId) (v : Byte) (s : State) : (raiseConfigError k r v s).x = s.x := rfl
@[simp] theorem raiseConfigError_pal (k : CfgKind) (r : RegId) (v : Byte) (s : State) : (raiseConfigError k r v s).pal = s.pal := rfl
@[simp] theorem raiseConfigError_chr (k : CfgKind) (r : RegId) (v : Byte) (s : State) : (raiseConfigError k r v s).chr = s.chr := rfl
@[simp] theorem raiseConfigError_col (k : CfgKind) (r : RegId) (v : Byte) (s : State) : (raiseConfigError k r v s).col = s.col := rfl
@[simp] theorem raiseConfigError_crw (k : CfgKind) (r : RegId) (v : Byte) (s : State) : (raiseConfigError k r v s).crw = s.crw := rfl
@[simp] theorem raiseConfigError_crh (k : CfgKind) (r : RegId) (v : Byte) (s : State) : (raiseConfigError k r v s).crh = s.crh := rfl
@[simp] theorem raiseConfigError_startT (k : CfgKind) (r : RegId) (v : Byte) (s : State) : (raiseConfigError k r v s).startT = s.startT := rfl
@[simp] theorem raiseConfigError_nextUpdate (k : CfgKind) (r : RegId) (v : Byte) (s : State) : (raiseConfigError k r v s).nextUpdate = s.nextUpdate := rfl
@[simp] theorem raiseConfigError_sched (k : CfgKind) (r : RegId) (v : Byte) (s : State) : (raiseConfigError k r v s).sched = s.sched := rfl
@[simp] theorem raiseConfigError_haltReq (k : CfgKind) (r : RegId) (v : Byte) (s : State) : (raiseConfigError k r v s).haltReq = s.haltReq := rfl
@[simp] theorem raiseConfigError_cfgErr (k : CfgKind) (r : RegId) (v : Byte) (s : State) : (raiseConfigError k r v s).cfgErr = some { kind := k, reg := r, value := v } := rfl
@[simp] theorem raiseConfigError_autostart (k : CfgKind) (r : RegId) (v : Byte) (s : State) : (raiseConfigError k r v s).autostart = s.autostart := rfl
@[simp] theorem raiseConfigError_conOut (k : CfgKind) (r : RegId) (v : Byte) (s : State) : (raiseConfigError k r v s).conOut = s.conOut := rfl
@[simp] theorem raiseConfigError_irqOut (k : CfgKind) (r : RegId) (v : Byte) (s : State) : (raiseConfigError k r v s).irqOut = s.irqOut := rfl
@[simp] theorem raiseConfigError_cw (k : CfgKind) (r : RegId) (v : Byte) (s : State) : (raiseConfigError k r v s).cw = s.cw := rfl
@[simp] theorem raiseConfigError_ch (k : CfgKind) (r : RegId) (v : Byte) (s : State) : (raiseConfigError k r v s).ch = s.ch := rfl
@[simp] theorem raiseConfigError_now (k : CfgKind) (r : RegId) (v : Byte) (s : State) : (raiseConfigError k r v s).now = s.now := rfl
@[simp] theorem raiseConfigError_keyq (k : CfgKind) (r : RegId) (v : Byte) (s : State) : (raiseConfigError k r v s).keyq = s.keyq := rfl
@[simp] theorem raiseConfigError_mem (k : CfgKind) (r : RegId) (v : Byte) (s : State) : (raiseConfigError k r v s).mem = s.mem := rfl
@[simp] theorem raiseConfigError_pc (k : CfgKind) (r : RegId) (v : Byte) (s : State) : (raiseConfigError k r v s).pc = s.pc := rfl
@[simp] theorem raiseConfigError_rdOut (k : CfgKind) (r : RegId) (v : Byte) (s : State) : (raiseConfigError k r v s).rdOut = s.rdOut := rfl
@[simp] theorem raiseConfigError_inbox (k : CfgKind) (r : RegId) (v : Byte) (s : State) : (raiseConfigError k r v s).inbox = s.inbox := rfl
@[simp] theorem raiseConfigError_cpuq (k : CfgKind) (r : RegId) (v : Byte) (s : State) : (raiseConfigError k r v s).cpuq = s.cpuq := rfl
@[simp] theorem raiseConfigError_freeCtr (k : CfgKind) (r : RegId) (v : Byte) (s : State) : (raiseConfigError k r v s).freeCtr = s.freeCtr := rfl

@[simp] theorem remap_par (y : Regs) (s : State) : (remap y s).par = s.par := rfl
@[simp] theorem remap_x (y : Regs) (s : State) : (remap y s).x = y := rfl
@[simp] theorem remap_pal (y : Regs) (s : State) : (remap y s).pal = s.pal := rfl
@[simp] theorem remap_chr (y : Regs) (s : State) : (remap y s).chr = resizeArray s.chr (ramSize y) (Config.chrFill s.freeCtr) := rfl
@[simp] theorem remap_col (y : Regs) (s : State) : (remap y s).col = resizeArray s.col (ramSize y) (Config.colFill s.freeCtr) := rfl
@[simp] theorem remap_crw (y : Regs) (s : State) : (remap y s).crw = s.crw := rfl
@[simp] theorem remap_crh (y : Regs) (s : State) : (remap y s).crh = s.crh := rfl
@[simp] theorem remap_startT (y : Regs) (s : State) : (remap y s).startT = s.startT := rfl
@[simp] theorem remap_nextUpdate (y : Regs) (s : State) : (remap y s).nextUpdate = s.nextUpdate := rfl
@[simp] theorem remap_sched (y : Regs) (s : State) : (remap y s).sched = s.sched := rfl
@[simp] theorem remap_haltReq (y : Regs) (s : State) : (remap y s).haltReq = s.haltReq := rfl
@[simp] theorem remap_cfgErr (y : Regs) (s : State) : (remap y s).cfgErr = s.cfgErr := rfl
@[simp] theorem remap_autostart (y : Regs) (s : State) : (remap y s).autostart = s.autostart := rfl
@[simp] theorem remap_conOut (y : Regs) (s : State) : (remap y s).conOut = s.conOut := rfl
@[simp] theorem remap_irqOut (y : Regs) (s : State) : (remap y s).irqOut = s.irqOut := rfl
@[simp] theorem remap_cw (y : Regs) (s : State) : (remap y s).cw = s.cw := rfl
@[simp] theorem remap_ch (y : Regs) (s : State) : (remap y s).ch = s.ch := rfl
@[simp] theorem remap_now (y : Regs) (s : State) : (remap y s).now = s.now := rfl
@[simp] theorem remap_keyq (y : Regs) (s : State) : (remap y s).keyq = s.keyq := rfl
@[simp] theorem remap_mem (y : Regs) (s : State) : (remap y s).mem = leaveMap s.map (mapOf s.par y) s.freeCtr s.mem := rfl
@[simp] theorem remap_pc (y : Regs) (s : State) : (remap y s).pc = s.pc := rfl
@[simp] theorem remap_rdOut (y : Regs) (s : State) : (remap y s).rdOut = s.rdOut := rfl
@[simp] theorem remap_inbox (y : Regs) (s : State) : (remap y s).inbox = s.inbox := rfl
@[simp] theorem remap_cpuq (y : Regs) (s : State) : (remap y s).cpuq = s.cpuq := rfl
@[simp] theorem remap_freeCtr (y : Regs) (s : State) : (remap y s).freeCtr = s.freeCtr + 1 := rfl

@[simp] theorem fillOutside_par (v : Byte) (s : State) : (fillOutside v s).par = s.par := rfl
@[simp] theorem fillOutside_x (v : Byte) (s : State) : (fillOutside v s).x = s.x := rfl
@[simp] theorem fillOutside_pal (v : Byte) (s : State) : (fillOutside v s).pal = s.pal := rfl
@[simp] theorem fillOutside_chr (v : Byte) (s : State) : (fillOutside v s).chr = s.chr := rfl
@[simp] theorem fillOutside_col (v : Byte) (s : State) : (fillOutside v s).col = s.col := rfl
@[simp] theorem fillOutside_crw (v : Byte) (s : State) : (fillOutside v s).crw = s.crw := rfl
@[simp] theorem fillOutside_crh (v : Byte) (s : State) : (fillOutside v s).crh = s.crh := rfl
@[simp] theorem fillOutside_startT (v : Byte) (s : State) : (fillOutside v s).startT = s.startT := rfl
@[simp] theorem fillOutside_nextUpdate (v : Byte) (s : State) : (fillOutside v s).nextUpdate = s.nextUpdate := rfl
@[simp] theorem fillOutside_sched (v : Byte) (s : State) : (fillOutside v s).sched = s.sched := rfl
@[simp] theorem fillOutside_haltReq (v : Byte) (s : State) : (fillOutside v s).haltReq = s.haltReq := rfl
@[simp] theorem fillOutside_cfgErr (v : Byte) (s : State) : (fillOutside v s).cfgErr = s.cfgErr := rfl
@[simp] theorem fillOutside_autostart (v : Byte) (s : State) : (fillOutside v s).autostart = s.autostart := rfl
@[simp] theorem fillOutside_conOut (v : Byte) (s : State) : (fillOutside v s).conOut = s.conOut ++ fillCmds s v := rfl
@[simp] theorem fillOutside_irqOut (v : Byte) (s : State) : (fillOutside v s).irqOut = s.irqOut := rfl
@[simp] theorem fillOutside_cw (v : Byte) (s : State) : (fillOutside v s).cw = s.cw := rfl
@[simp] theorem fillOutside_ch (v : Byte) (s : State) : (fillOutside v s).ch = s.ch := rfl
@[simp] theorem fillOutside_now (v : Byte) (s : State) : (fillOutside v s).now = s.now := rfl
@[simp] theorem fillOutside_keyq (v : Byte) (s : State) : (fillOutside v s).keyq = s.keyq := rfl
@[simp] theorem fillOutside_mem (v : Byte) (s : State) : (fillOutside v s).mem = s.mem := rfl
@[simp] theorem fillOutside_pc (v : Byte) (s : State) : (fillOutside v s).pc = s.pc := rfl
@[simp] theorem fillOutside_rdOut (v : Byte) (s : State) : (fillOutside v s).rdOut = s.rdOut := rfl
@[simp] theorem fillOutside_inbox (v : Byte) (s : State) : (fillOutside v s).inbox = s.inbox := rfl
@[simp] theorem fillOutside_cpuq (v : Byte) (s : State) : (fillOutside v s).cpuq = s.cpuq := rfl
@[simp] theorem fillOutside_freeCtr (v : Byte) (s : State) : (fillOutside v s).freeCtr = s.freeCtr := rfl

@[simp] theorem plainRead_par (a : Word16) (s : State) : (plainRead a s).par = s.par := rfl
@[simp] theorem plainRead_x (a : Word16) (s : State) : (plainRead a s).x = s.x := rfl
@[simp] theorem plainRead_pal (a : Word16) (s : State) : (plainRead a s).pal = s.pal := rfl
@[simp] theorem plainRead_chr (a : Word16) (s : State) : (plainRead a s).chr = s.chr := rfl
@[simp] theorem plainRead_col (a : Word16) (s : State) : (plainRead a s).col = s.col := rfl
@[simp] theorem plainRead_crw (a : Word16) (s : State) : (plainRead a s).crw = s.crw := rfl
@[simp] theorem plainRead_crh (a : Word16) (s : State) : (plainRead a s).crh = s.crh := rfl
@[simp] theorem plainRead_startT (a : Word16) (s : State) : (plainRead a s).startT = s.startT := rfl
@[simp] theorem plainRead_nextUpdate (a : Word16) (s : State) : (plainRead a s).nextUpdate = s.nextUpdate := rfl
@[simp] theorem plainRead_sched (a : Word16) (s : State) : (plainRead a s).sched = s.sched := rfl
@[simp] theorem plainRead_haltReq (a : Word16) (s : State) : (plainRead a s).haltReq = s.haltReq := rfl
@[simp] theorem plainRead_cfgErr (a : Word16) (s : State) : (plainRead a s).cfgErr = s.cfgErr := rfl
@[simp] theorem plainRead_autostart (a : Word16) (s : State) : (plainRead a s).autostart = s.autostart := rfl
@[simp] theorem plainRead_conOut (a : Word16) (s : State) : (plainRead a s).conOut = s.conOut := rfl
@[simp] theorem plainRead_irqOut (a : Word16) (s : State) : (plainRead a s).irqOut = s.irqOut := rfl
@[simp] theorem plainRead_cw (a : Word16) (s : State) : (plainRead a s).cw = s.cw := rfl
@[simp] theorem plainRead_ch (a : Word16) (s : State) : (plainRead a s).ch = s.ch := rfl
@[simp] theorem plainRead_now (a : Word16) (s : State) : (plainRead a s).now = s.now := rfl
@[simp] theorem plainRead_keyq (a : Word16) (s : State) : (plainRead a s).keyq = s.keyq := rfl
@[simp] theorem plainRead_mem (a : Word16) (s : State) : (plainRead a s).mem = s.mem := rfl
@[simp] theorem plainRead_pc (a : Word16) (s : State) : (plainRead a s).pc = s.pc := rfl
@[simp] theorem plainRead_rdOut (a : Word16) (s : State) : (plainRead a s).rdOut = s.rdOut ++ [s.mem.read a.toNat] := rfl
@[simp] theorem plainRead_inbox (a : Word16) (s : State) : (plainRead a s).inbox = s.inbox := rfl
@[simp] theorem plainRead_cpuq (a : Word16) (s : State) : (plainRead a s).cpuq = s.cpuq := rfl
@[simp] theorem plainRead_freeCtr (a : Word16) (s : State) : (plainRead a s).freeCtr = s.freeCtr := rfl

@[simp] theorem plainWrite_par (a : Word16) (v : Byte) (s : State) : (plainWrite a v s).par = s.par := rfl
@[simp] theorem plainWrite_x (a : Word16) (v : Byte) (s : State) : (plainWrite a v s).x = s.x := rfl
@[simp] theorem plainWrite_pal (a : Word16) (v : Byte) (s : State) : (plainWrite a v s).pal = s.pal := rfl
@[simp] theorem plainWrite_chr (a : Word16) (v : Byte) (s : State) : (plainWrite a v s).chr = s.chr := rfl
@[simp] theorem plainWrite_col (a : Word16) (v : Byte) (s : State) : (plainWrite a v s).col = s.col := rfl
@[simp] theorem plainWrite_crw (a : Word16) (v : Byte) (s : State) : (plainWrite a v s).crw = s.crw := rfl
@[simp] theorem plainWrite_crh (a : Word16) (v : Byte) (s : State) : (plainWrite a v s).crh = s.crh := rfl
@[simp] theorem plainWrite_startT (a : Word16) (v : Byte) (s : State) : (plainWrite a v s).startT = s.startT := rfl
@[simp] theorem plainWrite_nextUpdate (a : Word16) (v : Byte) (s : State) : (plainWrite a v s).nextUpdate = s.nextUpdate := rfl
@[simp] theorem plainWrite_sched (a : Word16) (v : Byte) (s : State) : (plainWrite a v s).sched = s.sched := rfl
@[simp] theorem plainWrite_haltReq (a : Word16) (v : Byte) (s : State) : (plainWrite a v s).haltReq = s.haltReq := rfl
@[simp] theorem plainWrite_cfgErr (a : Word16) (v : Byte) (s : State) : (plainWrite a v s).cfgErr = s.cfgErr := rfl
@[simp] theorem plainWrite_autostart (a : Word16) (v : Byte) (s : State) : (plainWrite a v s).autostart = s.autostart := rfl
@[simp] theorem plainWrite_conOut (a : Word16) (v : Byte) (s : State) : (plainWrite a v s).conOut = s.conOut := rfl
@[simp] theorem plainWrite_irqOut (a : Word16) (v : Byte) (s : State) : (plainWrite a v s).irqOut = s.irqOut := rfl
@[simp] theorem plainWrite_cw (a : Word16) (v : Byte) (s : State) : (plainWrite a v s).cw = s.cw := rfl
@[simp] theorem plainWrite_ch (a : Word16) (v : Byte) (s : State) : (plainWrite a v s).ch = s.ch := rfl
@[simp] theorem plainWrite_now (a : Word16) (v : Byte) (s : State) : (plainWrite a v s).now = s.now := rfl
@[simp] theorem plainWrite_keyq (a : Word16) (v : Byte) (s : State) : (plainWrite a v s).keyq = s.keyq := rfl
@[simp] theorem plainWrite_mem (a : Word16) (v : Byte) (s : State) : (plainWrite a v s).mem = s.mem.write a.toNat v := rfl
@[simp] theorem plainWrite_pc (a : Word16) (v : Byte) (s : State) : (plainWrite a v s).pc = s.pc := rfl
@[simp] theorem plainWrite_rdOut (a : Word16) (v : Byte) (s : State) : (plainWrite a v s).rdOut = s.rdOut := rfl
@[simp] theorem plainWrite_inbox (a : Word16) (v : Byte) (s : State) : (plainWrite a v s).inbox = s.inbox := rfl
@[simp] theorem plainWrite_cpuq (a : Word16) (v : Byte) (s : State) : (plainWrite a v s).cpuq = s.cpuq := rfl
@[simp] theorem plainWrite_freeCtr (a : Word16) (v : Byte) (s : State) : (plainWrite a v s).freeCtr = s.freeCtr := rfl

@[simp] theorem started_par (entry : Word16) (s : State) : (started entry s).par = s.par := rfl
@[simp] theorem started_x (entry : Word16) (s : State) : (started entry s).x = s.x := rfl
@[simp] theorem started_pal (entry : Word16) (s : State) : (started entry s).pal = s.pal := rfl
@[simp] theorem started_chr (entry : Word16) (s : State) : (started entry s).chr = s.chr := rfl
@[simp] theorem started_col (entry : Word16) (s : State) : (started entry s).col = s.col := rfl
@[simp] theorem started_crw (entry : Word16) (s : State) : (started entry s).crw = s.crw := rfl
@[simp] theorem started_crh (entry : Word16) (s : State) : (started entry s).crh = s.crh := rfl
@[simp] theorem started_startT (entry : Word16) (s : State) : (started entry s).startT = s.now := rfl
@[simp] theorem started_nextUpdate (entry : Word16) (s : State) : (started entry s).nextUpdate = s.now + s.par.tBoot := rfl
@[simp] theorem started_sched (entry : Word16) (s : State) : (started entry s).sched = .running := rfl
@[simp] theorem started_haltReq (entry : Word16) (s : State) : (started entry s).haltReq = s.haltReq := rfl
@[simp] theorem started_cfgErr (entry : Word16) (s : State) : (started entry s).cfgErr = s.cfgErr := rfl
@[simp] theorem started_autostart (entry : Word16) (s : State) : (started entry s).autostart = s.autostart := rfl
@[simp] theorem started_conOut (entry : Word16) (s : State) : (started entry s).conOut = s.conOut ++ fillCmds s s.x.cFillOut := rfl
@[simp] theorem started_irqOut (entry : Word16) (s : State) : (started entry s).irqOut = s.irqOut := rfl
@[simp] theorem started_cw (entry : Word16) (s : State) : (started entry s).cw = s.cw := rfl
@[simp] theorem started_ch (entry : Word16) (s : State) : (started entry s).ch = s.ch := rfl
@[simp] theorem started_now (entry : Word16) (s : State) : (started entry s).now = s.now := rfl
@[simp] theorem started_keyq (entry : Word16) (s : State) : (started entry s).keyq = s.keyq := rfl
@[simp] theorem started_mem (entry : Word16) (s : State) : (started entry s).mem = s.mem := rfl
@[simp] theorem started_pc (entry : Word16) (s : State) : (started entry s).pc = startTarget s entry := rfl
@[simp] theorem started_rdOut (entry : Word16) (s : State) : (started entry s).rdOut = s.rdOut := rfl
@[simp] theorem started_inbox (entry : Word16) (s : State) : (started entry s).inbox = s.inbox := rfl
@[simp] theorem started_cpuq (entry : Word16) (s : State) : (started entry s).cpuq = s.cpuq := rfl
@[simp] theorem started_freeCtr (entry : Word16) (s : State) : (started entry s).freeCtr = s.freeCtr := rfl

@[simp] theorem resetState_par (w h : Nat) (s : State) : (resetState w h s).par = s.par := rfl
@[simp] theorem resetState_x (w h : Nat) (s : State) : (resetState w h s).x = resetRegs s.par w h s.freeCtr := rfl
@[simp] theorem resetState_pal (w h : Nat) (s : State) : (resetState w h s).pal = paletteAtReset := rfl
@[simp] theorem resetState_chr (w h : Nat) (s : State) : (resetState w h s).chr = freshArray (ramSize (resetRegs s.par w h s.freeCtr)) (Config.chrFill s.freeCtr) := rfl
@[simp] theorem resetState_col (w h : Nat) (s : State) : (resetState w h s).col = freshArray (ramSize (resetRegs s.par w h s.freeCtr)) (Config.colFill s.freeCtr) := rfl
@[simp] theorem resetState_crw (w h : Nat) (s : State) : (resetState w h s).crw = w := rfl
@[simp] theorem resetState_crh (w h : Nat) (s : State) : (resetState w h s).crh = h := rfl
@[simp] theorem resetState_startT (w h : Nat) (s : State) : (resetState w h s).startT = s.now := rfl
@[simp] theorem resetState_nextUpdate (w h : Nat) (s : State) : (resetState w h s).nextUpdate = Config.nextUpdateReset s.freeCtr := rfl
@[simp] theorem resetState_sched (w h : Nat) (s : State) : (resetState w h s).sched = .stopped := rfl
@[simp] theorem resetState_haltReq (w h : Nat) (s : State) : (resetState w h s).haltReq = false := rfl
@[simp] theorem resetState_cfgErr (w h : Nat) (s : State) : (resetState w h s).cfgErr = none := rfl
@[simp] theorem resetState_autostart (w h : Nat) (s : State) : (resetState w h s).autostart = none := rfl
@[simp] theorem resetState_conOut (w h : Nat) (s : State) : (resetState w h s).conOut = [] := rfl
@[simp] theorem resetState_irqOut (w h : Nat) (s : State) : (resetState w h s).irqOut = [] := rfl
@[simp] theorem resetState_cw (w h : Nat) (s : State) : (resetState w h s).cw = w := rfl
@[simp] theorem resetState_ch (w h : Nat) (s : State) : (resetState w h s).ch = h := rfl
@[simp] theorem resetState_now (w h : Nat) (s : State) : (resetState w h s).now = s.now := rfl
@[simp] theorem resetState_keyq (w h : Nat) (s : State) : (resetState w h s).keyq = s.keyq := rfl
@[simp] theorem resetState_mem (w h : Nat) (s : State) : (resetState w h s).mem = leaveMap s.map (mapOf s.par (resetRegs s.par w h s.freeCtr)) s.freeCtr s.mem := rfl
@[simp] theorem resetState_pc (w h : Nat) (s : State) : (resetState w h s).pc = s.pc := rfl
@[simp] theorem resetState_rdOut (w h : Nat) (s : State) : (resetState w h s).rdOut = s.rdOut := rfl
@[simp] theorem resetState_inbox (w h : Nat) (s : State) : (resetState w h s).inbox = s.inbox := rfl
@[simp] theorem resetState_cpuq (w h : Nat) (s : State) : (resetState w h s).cpuq = s.cpuq := rfl
@[simp] theorem resetState_freeCtr (w h : Nat) (s : State) : (resetState w h s).freeCtr = s.freeCtr + 1 := rfl

@[simp] theorem halt_par (s : State) : (halt s).par = s.par := by unfold halt; split <;> rfl
@[simp] theorem halt_x (s : State) : (halt s).x = s.x := by unfold halt; split <;> rfl
@[simp] theorem halt_pal (s : State) : (halt s).pal = s.pal := by unfold halt; split <;> rfl
@[simp] theorem halt_chr (s : State) : (halt s).chr = s.chr := by unfold halt; split <;> rfl
@[simp] theorem halt_col (s : State) : (halt s).col = s.col := by unfold halt; split <;> rfl
@[simp] theorem halt_crw (s : State) : (halt s).crw = s.crw := by unfold halt; split <;> rfl
@[simp] theorem halt_crh (s : State) : (halt s).crh = s.crh := by unfold halt; split <;> rfl
@[simp] theorem halt_startT (s : State) : (halt s).startT = s.startT := by unfold halt; split <;> rfl
@[simp] theorem halt_nextUpdate (s : State) : (halt s).nextUpdate = s.nextUpdate := by unfold halt; split <;> rfl
@[simp] theorem halt_cfgErr (s : State) : (halt s).cfgErr = s.cfgErr := by unfold halt; split <;> rfl
@[simp] theorem halt_autostart (s : State) : (halt s).autostart = s.autostart := by unfold halt; split <;> rfl
@[simp] theorem halt_irqOut (s : State) : (halt s).irqOut = s.irqOut := by unfold halt; split <;> rfl
@[simp] theorem halt_cw (s : State) : (halt s).cw = s.cw := by unfold halt; split <;> rfl
@[simp] theorem halt_ch (s : State) : (halt s).ch = s.ch := by unfold halt; split <;> rfl
@[simp] theorem halt_now (s : State) : (halt s).now = s.now := by unfold halt; split <;> rfl
@[simp] theorem halt_keyq (s : State) : (halt s).keyq = s.keyq := by unfold halt; split <;> rfl
@[simp] theorem halt_mem (s : State) : (halt s).mem = s.mem := by unfold halt; split <;> rfl
@[simp] theorem halt_pc (s : State) : (halt s).pc = s.pc := by unfold halt; split <;> rfl
@[simp] theorem halt_rdOut (s : State) : (halt s).rdOut = s.rdOut := by unfold halt; split <;> rfl
@[simp] theorem halt_inbox (s : State) : (halt s).inbox = s.inbox := by unfold halt; split <;> rfl
@[simp] theorem halt_cpuq (s : State) : (halt s).cpuq = s.cpuq := by unfold halt; split <;> rfl
@[simp] theorem halt_freeCtr (s : State) : (halt s).freeCtr = s.freeCtr := by unfold halt; split <;> rfl
@[simp] theorem halt_haltReq (s : State) : (halt s).haltReq = true := by unfold halt; split <;> rfl
theorem halt_sched (s : State) : (halt s).sched = if s.sched = .running then .halted else s.sched := by
  unfold halt; split <;> rfl
theorem halt_conOut (s : State) :
    (halt s).conOut = if s.sched = .running then s.conOut ++ [.flush] else s.conOut := by
  unfold halt; split <;> rfl

@[simp] theorem drawCell_par (o : Nat) (s : State) : (drawCell o s).par = s.par := by unfold drawCell; split <;> rfl
@[simp] theorem drawCell_x (o : Nat) (s : State) : (drawCell o s).x = s.x := by unfold drawCell; split <;> rfl
@[simp] theorem drawCell_pal (o : Nat) (s : State) : (drawCell o s).pal = s.pal := by unfold drawCell; split <;> rfl
@[simp] theorem drawCell_chr (o : Nat) (s : State) : (drawCell o s).chr = s.chr := by unfold drawCell; split <;> rfl
@[simp] theorem drawCell_col (o : Nat) (s : State) : (drawCell o s).col = s.col := by unfold drawCell; split <;> rfl
@[simp] theorem drawCell_crw (o : Nat) (s : State) : (drawCell o s).crw = s.crw := by unfold drawCell; split <;> rfl
@[simp] theorem drawCell_crh (o : Nat) (s : State) : (drawCell o s).crh = s.crh := by unfold drawCell; split <;> rfl
@[simp] theorem drawCell_startT (o : Nat) (s : State) : (drawCell o s).startT = s.startT := by unfold drawCell; split <;> rfl
@[simp] theorem drawCell_nextUpdate (o : Nat) (s : State) : (drawCell o s).nextUpdate = s.nextUpdate := by unfold drawCell; split <;> rfl
@[simp] theorem drawCell_sched (o : Nat) (s : State) : (drawCell o s).sched = s.sched := by unfold drawCell; split <;> rfl
@[simp] theorem drawCell_haltReq (o : Nat) (s : State) : (drawCell o s).haltReq = s.haltReq := by unfold drawCell; split <;> rfl
@[simp] theorem drawCell_cfgErr (o : Nat) (s : State) : (drawCell o s).cfgErr = s.cfgErr := by unfold drawCell; split <;> rfl
@[simp] theorem drawCell_autostart (o : Nat) (s : State) : (drawCell o s).autostart = s.autostart := by unfold drawCell; split <;> rfl
@[simp] theorem drawCell_irqOut (o : Nat) (s : State) : (drawCell o s).irqOut = s.irqOut := by unfold drawCell; split <;> rfl
@[simp] theorem drawCell_cw (o : Nat) (s : State) : (drawCell o s).cw = s.cw := by unfold drawCell; split <;> rfl
@[simp] theorem drawCell_ch (o : Nat) (s : State) : (drawCell o s).ch = s.ch := by unfold drawCell; split <;> rfl
@[simp] theorem drawCell_now (o : Nat) (s : State) : (drawCell o s).now = s.now := by unfold drawCell; split <;> rfl
@[simp] theorem drawCell_keyq (o : Nat) (s : State) : (drawCell o s).keyq = s.keyq := by unfold drawCell; split <;> rfl
@[simp] theorem drawCell_mem (o : Nat) (s : State) : (drawCell o s).mem = s.mem := by unfold drawCell; split <;> rfl
@[simp] theorem drawCell_pc (o : Nat) (s : State) : (drawCell o s).pc = s.pc := by unfold drawCell; split <;> rfl
@[simp] theorem drawCell_rdOut (o : Nat) (s : State) : (drawCell o s).rdOut = s.rdOut := by unfold drawCell; split <;> rfl
@[simp] theorem drawCell_inbox (o : Nat) (s : State) : (drawCell o s).inbox = s.inbox := by unfold drawCell; split <;> rfl
@[simp] theorem drawCell_cpuq (o : Nat) (s : State) : (drawCell o s).cpuq = s.cpuq := by unfold drawCell; split <;> rfl
@[simp] theorem drawCell_freeCtr (o : Nat) (s : State) : (drawCell o s).freeCtr = s.freeCtr := by unfold drawCell; split <;> rfl

@[simp] theorem emit_map (cs : List ConCmd) (s : State) : (emit cs s).map = s.map := rfl
@[simp] theorem emit_size (cs : List ConCmd) (s : State) : (emit cs s).size = s.size := rfl
@[simp] theorem giveByte_map (v : Byte) (s : State) : (giveByte v s).map = s.map := rfl
@[simp] theorem giveByte_size (v : Byte) (s : State) : (giveByte v s).size = s.size := rfl
@[simp] theorem drawn_map (s : State) : (s.drawn).map = s.map := rfl
@[simp] theorem drawn_size (s : State) : (s.drawn).size = s.size := rfl
@[simp] theorem raiseConfigError_map (k : CfgKind) (r : RegId) (v : Byte) (s : State) : (raiseConfigError k r v s).map = s.map := rfl
@[simp] theorem raiseConfigError_size (k : CfgKind) (r : RegId) (v : Byte) (s : State) : (raiseConfigError k r v s).size = s.size := rfl
@[simp] theorem fillOutside_map (v : Byte) (s : State) : (fillOutside v s).map = s.map := rfl
@[simp] theorem fillOutside_size (v : Byte) (s : State) : (fillOutside v s).size = s.size := rfl
@[simp] theorem plainRead_map (a : Word16) (s : State) : (plainRead a s).map = s.map := rfl
@[simp] theorem plainRead_size (a : Word16) (s : State) : (plainRead a s).size = s.size := rfl
@[simp] theorem plainWrite_map (a : Word16) (v : Byte) (s : State) : (plainWrite a v s).map = s.map := rfl
@[simp] theorem plainWrite_size (a : Word16) (v : Byte) (s : State) : (plainWrite a v s).size = s.size := rfl
@[simp] theorem started_map (entry : Word16) (s : State) : (started entry s).map = s.map := rfl
@[simp] theorem started_size (entry : Word16) (s : State) : (started entry s).size = s.size := rfl
@[simp] theorem remap_map (y : Regs) (s : State) : (remap y s).map = mapOf s.par y := rfl
@[simp] theorem remap_size (y : Regs) (s : State) : (remap y s).size = ramSize y := rfl
@[simp] theorem halt_map (s : State) : (halt s).map = s.map := by simp [State.map]
@[simp] theorem halt_size (s : State) : (halt s).size = s.size := by simp [State.size]
@[simp] theorem drawCell_map (o : Nat) (s : State) : (drawCell o s).map = s.map := by simp [State.map]
@[simp] theorem drawCell_size (o : Nat) (s : State) : (drawCell o s).size = s.size := by simp [State.size]

end Sys2Proof.Machine
end

