-- ==== Sys2Proof/Laws/Ops.lean ====
section
/-! SUPPORT. What each shared operation can do, said once. -/

namespace Sys2Proof.Machine

/-! ### Sequencing -/

@[simp] theorem andThen_of_next {α β : Type} (a : α) (f : α → Host.Outcome β Fault Refusal) :
    andThen (.next a) f = f a := rfl

/-- A sequence that answers a next state went through a next state of its first part. -/
theorem andThen_next {α β : Type} {r : Host.Outcome α Fault Refusal} {f : α → Host.Outcome β Fault Refusal} {t : β}
    (h : andThen r f = .next t) :
    ∃ u, r = .next u ∧ f u = .next t := by
  cases r with
  | next u => exact ⟨u, rfl, h⟩
  | fault e => cases h
  | refused e => cases h

/-! ### Geometry writes -/

/-- A geometry write that answers a next state either remapped or raised the configuration error. -/
theorem geomWrite_next {r : RegId} {v : Byte} {s t : State} (h : geomWrite r v s = .next t) :
    ((mapOf s.par (s.x.set r v)).valid = true ∧ (mapOf s.par (s.x.set r v)).disjoint = true ∧ t = remap (s.x.set r v) s)
      ∨ ((mapOf s.par (s.x.set r v)).valid = false ∧ t = raiseConfigError .windowTooLarge r v s) := by
  unfold geomWrite at h
  split at h
  · rename_i hv
    split at h
    · rename_i hd; cases h; exact .inl ⟨hv, hd, rfl⟩
    · cases h
  · rename_i hv; cases h; exact .inr ⟨by simpa using hv, rfl⟩

/-- A geometry write to a valid and disjoint map remaps (R102). -/
theorem geomWrite_of_ok {r : RegId} {v : Byte} {s : State} (hv : (mapOf s.par (s.x.set r v)).valid = true)
    (hd : (mapOf s.par (s.x.set r v)).disjoint = true) : geomWrite r v s = .next (remap (s.x.set r v) s) := by
  simp [geomWrite, hv, hd]

theorem length_resizeArray (l : List Byte) (n : Nat) (fill : Nat → Byte) : (resizeArray l n fill).length = n := by
  simp [resizeArray]; omega

/-- A resize keeps the bytes of the common beginning (R156). -/
theorem resizeArray_kept {l : List Byte} {n k : Nat} (fill : Nat → Byte) (h : k < min l.length n) :
    (resizeArray l n fill)[k]? = l[k]? := by
  have h1 : k < n := by omega
  have h2 : k < l.length := by omega
  unfold resizeArray
  rw [List.getElem?_append_left (by simp; omega), List.getElem?_take_of_lt h1]

/-- A resize that does not change the length changes nothing. -/
theorem resizeArray_same (l : List Byte) (fill : Nat → Byte) : resizeArray l l.length fill = l := by
  simp [resizeArray]

/-- The reset window has 1024 bytes of VideoRAM (R26, R44). -/
theorem ramSize_resetRegs (p : Params) (w h n : Nat) : ramSize (resetRegs p w h n) = 1024 := by
  show ceilDiv ((40#8).toNat * (25#8).toNat) 256 * 256 = 1024
  decide

/-! ### The interrupt, the tick and the halt -/

/-- Raising the interrupt with both vector cells in plain memory: the target is the vector's content, low byte first
(R54, R222). -/
theorem raiseIrq_of_plain {s : State} (h₁ : s.decode s.par.irqVector = .none)
    (h₂ : s.decode (s.par.irqVector + 1) = .none) :
    ∃ target, target.toNat = (s.mem.read s.par.irqVector.toNat).toNat
        + 256 * (s.mem.read (s.par.irqVector + 1).toNat).toNat
      ∧ raiseIrq s = .next { s with irqOut := s.irqOut ++ [target] } := by
  refine ⟨s.mem.read (s.par.irqVector + 1).toNat ++ s.mem.read s.par.irqVector.toNat, ?_, ?_⟩
  · rw [BitVec.toNat_append, ← Nat.shiftLeft_add_eq_or_of_lt (BitVec.isLt _), Nat.shiftLeft_eq]; omega
  · unfold raiseIrq vectorTarget; rw [if_pos ⟨h₁, h₂⟩]

/-- What raising the interrupt does: one event with the vector's content, no mapped vector cell (R222). -/
theorem raiseIrq_next {s t : State} (h : raiseIrq s = .next t) :
    ∃ target, vectorTarget s = some target ∧ t = { s with irqOut := s.irqOut ++ [target] } := by
  unfold raiseIrq at h
  split at h
  · rename_i target ht; cases h; exact ⟨target, ht, rfl⟩
  · cases h

/-- What DoUpdate does: flush and latch; one interrupt event exactly on an enabled edge (R216). -/
theorem doUpdate_next {s t : State} (h : doUpdate s = .next t) :
    ∃ evs, t = { s with conOut := s.conOut ++ [.flush], x := latchTimer s.par s.x, irqOut := s.irqOut ++ evs } ∧
      ((timerEdge s.par s.x = false ∧ evs = []) ∨ (timerEdge s.par s.x = true ∧ ∃ target, evs = [target])) := by
  unfold doUpdate at h
  split at h
  · rename_i he
    obtain ⟨target, -, rfl⟩ := raiseIrq_next h
    exact ⟨[target], rfl, .inr ⟨he, target, rfl⟩⟩
  · rename_i he
    cases h
    exact ⟨[], by simp [emit], .inl ⟨by simpa using he, rfl⟩⟩

/-- What the refresh does (R215). -/
theorem refreshExtent_next {s t : State} (h : refreshExtent s = .next t) :
    dimOk s.cw = true ∧ dimOk s.ch = true ∧ t = { s with crw := s.cw, crh := s.ch } := by
  unfold refreshExtent at h
  split at h
  · rename_i hd; cases h; exact ⟨hd.1, hd.2, rfl⟩
  · cases h

/-- What a tick body does (R215, R216). -/
theorem tickBody_next {s t : State} (h : tickBody s = .next t) :
    dimOk s.cw = true ∧ dimOk s.ch = true ∧ ∃ evs,
      t = { s with
            conOut := s.conOut ++ [.flush], x := latchTimer s.par s.x, irqOut := s.irqOut ++ evs
            crw := s.cw, crh := s.ch } ∧
      ((timerEdge s.par s.x = false ∧ evs = []) ∨ (timerEdge s.par s.x = true ∧ ∃ target, evs = [target])) := by
  obtain ⟨u, hu, ht⟩ := andThen_next h
  obtain ⟨evs, rfl, he⟩ := doUpdate_next hu
  obtain ⟨h₁, h₂, rfl⟩ := refreshExtent_next ht
  exact ⟨h₁, h₂, evs, rfl, he⟩

@[simp] theorem latchTimer_map (p : Params) (x : Regs) : mapOf p (latchTimer p x) = mapOf p x := rfl
@[simp] theorem latchTimer_ramSize (p : Params) (x : Regs) : ramSize (latchTimer p x) = ramSize x := rfl
@[simp] theorem toggleIrqR_map (p : Params) (v : Byte) (x : Regs) : mapOf p (toggleIrqR v x) = mapOf p x := rfl
@[simp] theorem toggleIrqR_ramSize (v : Byte) (x : Regs) : ramSize (toggleIrqR v x) = ramSize x := rfl

/-- What the halt does (R223). -/
theorem halt_cases (s : State) :
    (s.sched = .running ∧ halt s = { s with conOut := s.conOut ++ [.flush], haltReq := true, sched := .halted })
      ∨ (s.sched ≠ .running ∧ halt s = { s with haltReq := true }) := by
  unfold halt
  split
  · rename_i h; exact .inl ⟨h, rfl⟩
  · rename_i h; exact .inr ⟨h, rfl⟩

/-! ### Drawing -/

/-- A draw of a cell that both arrays hold appends its three commands (R178). -/
theorem drawCell_inRam {s : State} {o : Nat} (c k : Byte) (hc : s.chr[o]? = some c) (hk : s.col[o]? = some k) :
    drawCell o s = { s with conOut := s.conOut ++ cellCmds s o c k } := by
  unfold drawCell; rw [hc, hk]; rfl

theorem inRam_iff (s : State) (o : Nat) : inRam s o = true ↔ o < s.chr.length ∧ o < s.col.length := by
  simp [inRam]

theorem windowSet_iff (s : State) : windowSet s = true ↔ s.x.winW ≠ 0 ∧ s.x.winH ≠ 0 := by simp [windowSet]

theorem dimOk_iff (n : Nat) : dimOk n = true ↔ 1 ≤ n ∧ n ≤ 255 := by simp [dimOk]

/-- The transform stays on the terminal (R176). -/
theorem coord_in_bounds {s : State} (hw : 1 ≤ s.crw) (hh : 1 ≤ s.crh) (o : Nat) :
    (coord s o).1 < s.crw ∧ (coord s o).2 < s.crh :=
  ⟨Nat.mod_lt _ (by omega), Nat.mod_lt _ (by omega)⟩

/-! ### Bus accesses -/

/-- A register write of `WR.CONTROL` in its three parts (R146). -/
theorem execWrControl_next {v : Byte} {s t : State} (h : execWrControl v s = .next t) :
    ∃ u, (if v.getLsbD 1 = true then tickBody s else .next s) = .next u ∧ t = if v.getLsbD 0 = true then halt u else u := by
  obtain ⟨u, hu, ht⟩ := andThen_next h
  exact ⟨u, hu, by injection ht with ht; exact ht.symm⟩

/-- Operations that a bus transaction decodes to. -/
def isBusOp : Instr → Bool
  | .reset _ _ | .load _ _ | .start _ | .tick | .key _ | .advance _ | .resize _ _ | .cpuStep => false
  | _ => true

/-- On bus operations the two dispatches agree. -/
theorem execBus_eq_exec {i : Instr} (h : isBusOp i = true) (s : State) : execBus i s = exec i s := by
  cases i <;> first | rfl | cases h

theorem decodeRegRead_isBus (m : AddrMap) (off : Byte) : isBusOp (decodeRegRead m off) = true := by
  unfold decodeRegRead; split <;> first | rfl | (split <;> rfl)

theorem decodeRegWrite_isBus (m : AddrMap) (off v : Byte) : isBusOp (decodeRegWrite m off v) = true := by
  unfold decodeRegWrite; split <;> first | rfl | (split <;> rfl)

/-- A bus transaction decodes to a bus operation or to an access to plain memory (R91). -/
theorem decodeBus_cases (m : AddrMap) (w : BusWord) :
    (∃ i, decodeBus m w = .op i ∧ isBusOp i = true) ∨ decodeBus m w = .plainRead w.addr
      ∨ decodeBus m w = .plainWrite w.addr w.data := by
  unfold decodeBus
  split
  · exact .inl ⟨_, rfl, decodeRegRead_isBus _ _⟩
  · exact .inl ⟨_, rfl, decodeRegWrite_isBus _ _ _⟩
  · exact .inl ⟨_, rfl, rfl⟩
  · exact .inl ⟨_, rfl, rfl⟩
  · exact .inl ⟨_, rfl, rfl⟩
  · exact .inl ⟨_, rfl, rfl⟩
  · exact .inr (.inl rfl)
  · exact .inr (.inr rfl)

/-- A bus access is a bus operation of the block or an access to plain memory. -/
theorem busAccess_cases (w : BusWord) (s : State) :
    (∃ i, decodeBus s.map w = .op i ∧ isBusOp i = true ∧ busAccess w s = exec i s)
      ∨ busAccess w s = .next (plainRead w.addr s) ∨ busAccess w s = .next (plainWrite w.addr w.data s) := by
  rcases decodeBus_cases s.map w with ⟨i, hi, hb⟩ | h | h
  · refine .inl ⟨i, hi, hb, ?_⟩
    rw [busAccess, hi]; exact execBus_eq_exec hb s
  · exact .inr (.inl (by rw [busAccess, h]; rfl))
  · exact .inr (.inr (by rw [busAccess, h]; rfl))

/-- A transaction that decodes to an operation performs it. -/
theorem busAccess_of_op {w : BusWord} {i : Instr} {s : State} (h : decodeBus s.map w = .op i) :
    busAccess w s = exec i s := by
  rcases decodeBus_cases s.map w with ⟨j, hj, hb⟩ | h' | h'
  · rw [h] at hj; cases hj
    rw [busAccess, h]; exact execBus_eq_exec hb s
  · rw [h] at h'; cases h'
  · rw [h] at h'; cases h'

/-- A transaction outside the ranges is an access to plain memory (R70). -/
theorem busAccess_of_none {w : BusWord} {s : State} (h : decodeAddr s.map w.addr = .none) :
    busAccess w s = .next (if w.isWrite = true then plainWrite w.addr w.data s else plainRead w.addr s) := by
  unfold busAccess decodeBus
  rw [h]; cases w.isWrite <;> rfl

/-- A property of one state before and one after that holds of no change, of bus operations and of plain accesses,
and composes, holds of a sequence of bus accesses. -/
theorem busAccesses_induction {P : State → State → Prop} (refl : ∀ s, P s s)
    (trans : ∀ s t u, P s t → P t u → P s u) (access : ∀ w s t, busAccess w s = .next t → P s t) :
    ∀ (ws : List BusWord) (s t : State), busAccesses ws s = .next t → P s t := by
  intro ws
  induction ws with
  | nil => intro s t h; cases h; exact refl s
  | cons w ws ih =>
    intro s t h
    obtain ⟨u, hu, ht⟩ := andThen_next h
    exact trans s u t (access w s u hu) (ih u t ht)

/-- The same for an image's bytes (R250). -/
theorem loadBytes_induction {P : State → State → Prop} (refl : ∀ s, P s s)
    (trans : ∀ s t u, P s t → P t u → P s u) (access : ∀ w s t, busAccess w s = .next t → P s t) :
    ∀ (bs : List Byte) (a : Nat) (s t : State), loadBytes a bs s = .next t → P s t := by
  intro bs
  induction bs with
  | nil => intro a s t h; cases h; exact refl s
  | cons b bs ih =>
    intro a s t h
    obtain ⟨u, hu, ht⟩ := andThen_next h
    exact trans s u t (access _ s u hu) (ih _ u t ht)

/-- What caching the auto-start address does (R250 to R253). -/
theorem cacheAutostart_next {addr : Word16} {bytes : List Byte} {s t : State}
    (h : cacheAutostart addr bytes s = .next t) : ∃ a, t = { s with autostart := a } := by
  unfold cacheAutostart at h
  split at h
  · split at h
    · cases h; exact ⟨none, rfl⟩
    · split at h
      · cases h; exact ⟨_, rfl⟩
      · cases h
  · cases h; exact ⟨s.autostart, rfl⟩

/-- What taking the next accesses changes: the queue or the draw counter (R225). -/
theorem nextAccesses_state (s : State) :
    (nextAccesses s).2 = s.drawn ∨ ∃ rest, (nextAccesses s).2 = { s with cpuq := rest } := by
  unfold nextAccesses
  split
  · exact .inl rfl
  · exact .inr ⟨_, rfl⟩

/-! ### The step -/

/-- What a step can be: waiting, an operation, an access to plain memory. -/
theorem step_next {s t : State} (h : step s = .next t) :
    (s.inbox = [] ∧ t = s) ∨ ∃ p rest, s.inbox = p :: rest ∧
      ((∃ i, decodePacket s.map p = .op i ∧ exec i { s with inbox := rest } = .next t)
        ∨ (∃ a, decodePacket s.map p = .plainRead a ∧ t = plainRead a { s with inbox := rest })
        ∨ ∃ a v, decodePacket s.map p = .plainWrite a v ∧ t = plainWrite a v { s with inbox := rest }) := by
  unfold step nextPacket at h
  cases hin : s.inbox with
  | nil => rw [hin] at h; cases h; exact .inl ⟨rfl, rfl⟩
  | cons p rest =>
    rw [hin] at h
    refine .inr ⟨p, rest, rfl, ?_⟩
    have hm : ({ s with inbox := rest } : State).map = s.map := rfl
    simp only [hm] at h
    cases hd : decodePacket s.map p with
    | op i => rw [hd] at h; exact .inl ⟨i, rfl, h⟩
    | plainRead a => rw [hd] at h; cases h; exact .inr (.inl ⟨a, rfl, rfl⟩)
    | plainWrite a v => rw [hd] at h; cases h; exact .inr (.inr ⟨a, v, rfl, rfl⟩)
    | unknownEvent c => rw [hd] at h; cases h
    | badOperands c => rw [hd] at h; cases h

end Sys2Proof.Machine
end

