-- ==== Sys2Proof/Laws/Drives.lean ====
section
/-! SUPPORT. What the environment and the drives can do. -/

namespace Sys2Proof.Machine

/-! ### The environment -/

/-- The environment always completes, and touches the clock, the keys and the console's size only; keys are appended. -/
theorem environment_next (vs : List EnvEvent) (s : State) :
    ∃ keys w h, environment vs s
      = .next { s with now := s.now + elapsed vs, keyq := s.keyq ++ keys, cw := w, ch := h } := by
  induction vs generalizing s with
  | nil => exact ⟨[], s.cw, s.ch, by simp [environment, elapsed]⟩
  | cons v vs ih =>
    cases v with
    | advance dt =>
      obtain ⟨keys, w, h, e⟩ := ih { s with now := s.now + dt }
      exact ⟨keys, w, h, by
        rw [environment, show exec (envInstr (.advance dt)) s = .next { s with now := s.now + dt } from rfl,
          andThen_of_next, e, elapsed, Nat.add_assoc]⟩
    | key b =>
      by_cases hb : keyRoom s = true
      · obtain ⟨keys, w, h, e⟩ := ih { s with keyq := s.keyq ++ [b] }
        exact ⟨b :: keys, w, h, by
          rw [environment, show exec (envInstr (.key b)) s = execKey b s from rfl, execKey, if_pos hb,
            andThen_of_next, e, elapsed, List.append_assoc, List.singleton_append]⟩
      · obtain ⟨keys, w, h, e⟩ := ih s
        exact ⟨keys, w, h, by
          rw [environment, show exec (envInstr (.key b)) s = execKey b s from rfl, execKey, if_neg hb,
            andThen_of_next, e, elapsed]⟩
    | resize w' h' =>
      obtain ⟨keys, w, h, e⟩ := ih { s with cw := w', ch := h' }
      exact ⟨keys, w, h, by
        rw [environment, show exec (envInstr (.resize w' h')) s = .next { s with cw := w', ch := h' } from rfl,
          andThen_of_next, e, elapsed]⟩

theorem environment_append (vs ws : List EnvEvent) (s : State) :
    environment (vs ++ ws) s = andThen (environment vs s) (environment ws) := by
  induction vs generalizing s with
  | nil => rfl
  | cons v vs ih =>
    rw [List.cons_append, environment, environment]
    cases exec (envInstr v) s with
    | next t => exact ih t
    | fault e => rfl
    | refused e => rfl

theorem elapsed_within (limit : Nat) (vs : List EnvEvent) : elapsed (within limit vs) = min (elapsed vs) limit := by
  induction vs generalizing limit with
  | nil => simp [within, elapsed]
  | cons v vs ih =>
    cases v with
    | advance dt => simp only [within, elapsed, ih]; omega
    | key b => simp only [within, elapsed, ih]
    | resize w h => simp only [within, elapsed, ih]

/-- A sleep that is short enough is not cut. -/
theorem within_of_le {limit : Nat} {vs : List EnvEvent} (h : elapsed vs ≤ limit) : within limit vs = vs := by
  induction vs generalizing limit with
  | nil => rfl
  | cons v vs ih =>
    cases v with
    | advance dt =>
      simp only [elapsed] at h
      rw [within, Nat.min_eq_left (by omega), ih (by omega)]
    | key b => rw [within, ih h]
    | resize w h' => rw [within, ih h]

/-! ### The quantum and the clock test -/

/-- Outside Running no unit is run. -/
theorem execute_not_running {s : State} (h : s.sched ≠ .running) (q : Nat) (units : List (List EnvEvent)) :
    execute q units s = .next { state := s, cyclesRun := 0 } := by
  cases q with
  | zero => rfl
  | succ q =>
    cases units with
    | nil => rfl
    | cons vs units => rw [execute, if_neg h]

/-- A quantum that answers ran nothing, being at its end or not running, or a first unit and then the others. -/
theorem execute_next {q : Nat} {units : List (List EnvEvent)} {s : State} {e : Executed}
    (h : execute q units s = .next e) :
    ((q = 0 ∨ units = [] ∨ s.sched ≠ .running) ∧ e = { state := s, cyclesRun := 0 })
      ∨ ∃ p vs us t e', q = p + 1 ∧ units = vs :: us ∧ s.sched = .running
          ∧ andThen (environment vs s) execCpuStep = .next t ∧ execute p us t = .next e'
          ∧ e = { e' with cyclesRun := e'.cyclesRun + 1 } := by
  cases q with
  | zero => cases h; exact .inl ⟨.inl rfl, rfl⟩
  | succ q =>
    cases units with
    | nil => cases h; exact .inl ⟨.inr (.inl rfl), rfl⟩
    | cons vs us =>
      rw [execute] at h
      split at h
      · rename_i hs
        obtain ⟨e', he, h⟩ := andThen_next h
        obtain ⟨t, ht, he⟩ := andThen_next he
        cases h
        exact .inr ⟨q, vs, us, t, e', rfl, rfl, hs, ht, he, rfl⟩
      · rename_i hs
        cases h
        exact .inl ⟨.inr (.inr hs), rfl⟩

/-- Without a tick due the machine sleeps. -/
theorem tickOrSleep_sleeps {s : State} (h : tickEnabled s = false) (sleep : List EnvEvent) :
    tickOrSleep sleep s = environment (within s.par.tSleep sleep) s := by
  rw [tickOrSleep, if_neg (by simp [h])]

end Sys2Proof.Machine
end

