-- ==== Sys2Proof/Laws/PerInstr.lean ====
section
/-! SUPPORT. Facts about each operation as syntax, one lemma per constructor. -/

namespace Sys2Proof.Laws.Framed

/-- The frame of an operation's encoding (R80, R81, R84): a bus transaction whose `rw` bit says read or write, or an
event with its code and its operands. -/
inductive Frame where
  | busRead
  | busWrite
  | event (code : Nat) (operands : List Nat)

/-- The frame that the table gives each operation. -/
def frameOf : Instr → Frame
  | .rdWinX | .rdWinY | .rdWinW | .rdWinH | .rdTextPtr | .rdColorPtr | .rdCharset | .rdFreq => .busRead
  | .rdIrqE | .rdIrqR | .rdKeys | .rdTimerLo | .rdTimerHi | .rdRealW | .rdRealH | .rdControl => .busRead
  | .rdCFillOut | .rdUnknown _ | .rdPal _ | .rdText _ | .rdColor _ => .busRead
  | .wrWinX _ | .wrWinY _ | .wrWinW _ | .wrWinH _ | .wrTextPtr _ | .wrColorPtr _ | .wrCharset _ => .busWrite
  | .wrFreq _ | .wrIrqE _ | .wrPal _ _ | .wrIrqR _ | .wrKeys _ | .wrTimerLo _ | .wrTimerHi _ => .busWrite
  | .wrRealW _ | .wrRealH _ | .wrControl _ | .wrCFillOut _ | .wrUnknown _ _ | .wrText _ _ | .wrColor _ _ => .busWrite
  | .reset w h => .event 0 [w, h]
  | .load a bs => .event 1 (a.toNat :: bs.map BitVec.toNat)
  | .start e => .event 2 [e.toNat]
  | .tick => .event 3 []
  | .key b => .event 4 [b.toNat]
  | .advance dt => .event 5 [dt]
  | .resize w h => .event 6 [w, h]
  | .cpuStep => .event 7 []

/-- A packet has a frame. -/
def hasFrame : Frame → Packet → Prop
  | .busRead, p => ∃ a v, p = .bus (busWord false a v)
  | .busWrite, p => ∃ a v, p = .bus (busWord true a v)
  | .event c ops, p => p = .evt (BitVec.ofNat 8 c) ops

/-- The encoder gives an operation the table's frame, under every address map. -/
def Statement (i : Instr) : Prop := ∀ m, hasFrame (frameOf i) (encode m i)

theorem rdWinX : Statement (.rdWinX) := fun _ => ⟨_, _, rfl⟩
theorem rdWinY : Statement (.rdWinY) := fun _ => ⟨_, _, rfl⟩
theorem rdWinW : Statement (.rdWinW) := fun _ => ⟨_, _, rfl⟩
theorem rdWinH : Statement (.rdWinH) := fun _ => ⟨_, _, rfl⟩
theorem rdTextPtr : Statement (.rdTextPtr) := fun _ => ⟨_, _, rfl⟩
theorem rdColorPtr : Statement (.rdColorPtr) := fun _ => ⟨_, _, rfl⟩
theorem rdCharset : Statement (.rdCharset) := fun _ => ⟨_, _, rfl⟩
theorem rdFreq : Statement (.rdFreq) := fun _ => ⟨_, _, rfl⟩
theorem rdIrqE : Statement (.rdIrqE) := fun _ => ⟨_, _, rfl⟩
theorem rdIrqR : Statement (.rdIrqR) := fun _ => ⟨_, _, rfl⟩
theorem rdKeys : Statement (.rdKeys) := fun _ => ⟨_, _, rfl⟩
theorem rdTimerLo : Statement (.rdTimerLo) := fun _ => ⟨_, _, rfl⟩
theorem rdTimerHi : Statement (.rdTimerHi) := fun _ => ⟨_, _, rfl⟩
theorem rdRealW : Statement (.rdRealW) := fun _ => ⟨_, _, rfl⟩
theorem rdRealH : Statement (.rdRealH) := fun _ => ⟨_, _, rfl⟩
theorem rdControl : Statement (.rdControl) := fun _ => ⟨_, _, rfl⟩
theorem rdCFillOut : Statement (.rdCFillOut) := fun _ => ⟨_, _, rfl⟩
theorem rdUnknown (off : Byte) : Statement (.rdUnknown off) := fun _ => ⟨_, _, rfl⟩
theorem rdPal (i : Nat) : Statement (.rdPal i) := fun _ => ⟨_, _, rfl⟩
theorem wrWinX (v : Byte) : Statement (.wrWinX v) := fun _ => ⟨_, _, rfl⟩
theorem wrWinY (v : Byte) : Statement (.wrWinY v) := fun _ => ⟨_, _, rfl⟩
theorem wrWinW (v : Byte) : Statement (.wrWinW v) := fun _ => ⟨_, _, rfl⟩
theorem wrWinH (v : Byte) : Statement (.wrWinH v) := fun _ => ⟨_, _, rfl⟩
theorem wrTextPtr (v : Byte) : Statement (.wrTextPtr v) := fun _ => ⟨_, _, rfl⟩
theorem wrColorPtr (v : Byte) : Statement (.wrColorPtr v) := fun _ => ⟨_, _, rfl⟩
theorem wrCharset (v : Byte) : Statement (.wrCharset v) := fun _ => ⟨_, _, rfl⟩
theorem wrFreq (v : Byte) : Statement (.wrFreq v) := fun _ => ⟨_, _, rfl⟩
theorem wrIrqE (v : Byte) : Statement (.wrIrqE v) := fun _ => ⟨_, _, rfl⟩
theorem wrPal (i : Nat) (v : Byte) : Statement (.wrPal i v) := fun _ => ⟨_, _, rfl⟩
theorem wrIrqR (v : Byte) : Statement (.wrIrqR v) := fun _ => ⟨_, _, rfl⟩
theorem wrKeys (v : Byte) : Statement (.wrKeys v) := fun _ => ⟨_, _, rfl⟩
theorem wrTimerLo (v : Byte) : Statement (.wrTimerLo v) := fun _ => ⟨_, _, rfl⟩
theorem wrTimerHi (v : Byte) : Statement (.wrTimerHi v) := fun _ => ⟨_, _, rfl⟩
theorem wrRealW (v : Byte) : Statement (.wrRealW v) := fun _ => ⟨_, _, rfl⟩
theorem wrRealH (v : Byte) : Statement (.wrRealH v) := fun _ => ⟨_, _, rfl⟩
theorem wrControl (v : Byte) : Statement (.wrControl v) := fun _ => ⟨_, _, rfl⟩
theorem wrCFillOut (v : Byte) : Statement (.wrCFillOut v) := fun _ => ⟨_, _, rfl⟩
theorem wrUnknown (off : Byte) (v : Byte) : Statement (.wrUnknown off v) := fun _ => ⟨_, _, rfl⟩
theorem rdText (o : Nat) : Statement (.rdText o) := fun _ => ⟨_, _, rfl⟩
theorem rdColor (o : Nat) : Statement (.rdColor o) := fun _ => ⟨_, _, rfl⟩
theorem wrText (o : Nat) (v : Byte) : Statement (.wrText o v) := fun _ => ⟨_, _, rfl⟩
theorem wrColor (o : Nat) (v : Byte) : Statement (.wrColor o v) := fun _ => ⟨_, _, rfl⟩
theorem reset (w : Nat) (h : Nat) : Statement (.reset w h) := fun _ => rfl
theorem load (addr : Word16) (bytes : List Byte) : Statement (.load addr bytes) := fun _ => rfl
theorem start (entry : Word16) : Statement (.start entry) := fun _ => rfl
theorem tick : Statement (.tick) := fun _ => rfl
theorem key (b : Byte) : Statement (.key b) := fun _ => rfl
theorem advance (dt : Nat) : Statement (.advance dt) := fun _ => rfl
theorem resize (w : Nat) (h : Nat) : Statement (.resize w h) := fun _ => rfl
theorem cpuStep : Statement (.cpuStep) := fun _ => rfl

end Sys2Proof.Laws.Framed
end

