-- ==== Sys2Proof/Tests/Slice0.lean ====
section
/-! SUPPORT. Tests: ill-formed terms refused, words written out from the spec's encodings, single steps from
95_test_vectors.md, and for each statement with hypotheses a state and operands that meet them. -/

namespace Sys2Proof.Tests

open Sys2Proof Sys2Proof.Machine

/-! ### Helpers -/

/-- A part of the next state; none where the operation stops. -/
def after {α : Type} (r : Result) (f : State → α) : Option α :=
  match r with
  | .next s => some (f s)
  | .fault _ => none
  | .refused _ => none

/-- The operation goes on. -/
def runs (r : Result) : Bool := (after r State.pc).isSome

theorem of_runs {r : Result} (h : runs r = true) : ∃ t, r = .next t := by
  cases r with
  | next t => exact ⟨t, rfl⟩
  | fault e => cases h
  | refused e => cases h

/-- The refusal of an operation that is refused. -/
def refusal (r : Result) : Option Refusal :=
  match r with
  | .next _ => none
  | .fault _ => none
  | .refused e => some e

/-- Operations one after the other. -/
def run : List Instr → State → Result
  | [], s => .next s
  | i :: is, s => andThen (exec i s) (run is)

/-- The state after reset with known bytes where it has free ones: colour bytes 0x61, the rest 0, and the interrupt
vector 0x1234 in plain memory (95_test_vectors.md V16). -/
def base : State :=
  { State.reset with
    pal := Vector.replicate 96 0
    chr := List.replicate 1024 0
    col := List.replicate 1024 0x61
    nextUpdate := 0
    mem := { cells := [(0xFFFE, 0x34), (0xFFFF, 0x12)], left := [] } }

/-- The cursor positions of a trace. -/
def cursors (cs : List ConCmd) : List (Nat × Nat) :=
  cs.filterMap fun c =>
    match c with
    | .setCursor x y => some (x, y)
    | .setColor _ _ | .put _ | .flush => none

/-- The colours of a trace. -/
def colors (cs : List ConCmd) : List (Color × Color) :=
  cs.filterMap fun c =>
    match c with
    | .setColor f b => some (f, b)
    | .setCursor _ _ | .put _ | .flush => none

/-! ### Ill-formed terms (30_encoding.md R85, R88) -/

theorem test_wf_rdPal_96 : (Instr.rdPal 96).wf .afterReset = false ∧ (Instr.rdPal 95).wf .afterReset = true := by decide

theorem test_wf_wrPal_96 : (Instr.wrPal 96 0).wf .afterReset = false ∧ (Instr.wrPal 95 0).wf .afterReset = true := by
  decide

theorem test_wf_rdUnknown :
    (Instr.rdUnknown 0x10).wf .afterReset = false ∧ (Instr.rdUnknown 0x80).wf .afterReset = false
      ∧ (Instr.rdUnknown 0xDF).wf .afterReset = false ∧ (Instr.rdUnknown 0x11).wf .afterReset = true := by decide

theorem test_wf_wrUnknown :
    (Instr.wrUnknown 0x10 1).wf .afterReset = false ∧ (Instr.wrUnknown 0x80 1).wf .afterReset = false
      ∧ (Instr.wrUnknown 0xDF 1).wf .afterReset = false ∧ (Instr.wrUnknown 0xE0 1).wf .afterReset = true := by decide

theorem test_wf_videoRam :
    (Instr.rdText 1024).wf .afterReset = false ∧ (Instr.rdColor 1024).wf .afterReset = false
      ∧ (Instr.wrText 1024 0).wf .afterReset = false ∧ (Instr.wrColor 1024 0).wf .afterReset = false
      ∧ (Instr.wrColor 1023 0).wf .afterReset = true := by decide

/-! ### Words written out from the encoding (30_encoding.md R80 to R84): `rw page off data` -/

/-- Register reads: `0 11010111 off 00000000`. -/
def readWords : List (Nat × Instr) :=
  [(0x0D70000, .rdWinX), (0x0D70100, .rdWinY), (0x0D70200, .rdWinW), (0x0D70300, .rdWinH), (0x0D70400, .rdTextPtr),
   (0x0D70500, .rdColorPtr), (0x0D70600, .rdCharset), (0x0D70700, .rdFreq), (0x0D70800, .rdIrqE), (0x0D70900, .rdIrqR),
   (0x0D70A00, .rdKeys), (0x0D70B00, .rdTimerLo), (0x0D70C00, .rdTimerHi), (0x0D70D00, .rdRealW), (0x0D70E00, .rdRealH),
   (0x0D70F00, .rdControl), (0x0D71000, .rdCFillOut), (0x0D71100, .rdUnknown 0x11), (0x0D77F00, .rdUnknown 0x7F),
   (0x0D78000, .rdPal 0), (0x0D7DF00, .rdPal 95), (0x0D7E000, .rdUnknown 0xE0)]

/-- Register writes: `1 11010111 off data`. -/
def writeWords : List (Nat × Instr) :=
  [(0x1D70046, .wrWinX 0x46), (0x1D70101, .wrWinY 0x01), (0x1D70250, .wrWinW 0x50), (0x1D703FF, .wrWinH 0xFF),
   (0x1D704FD, .wrTextPtr 0xFD), (0x1D705FC, .wrColorPtr 0xFC), (0x1D70601, .wrCharset 0x01), (0x1D70732, .wrFreq 0x32),
   (0x1D70881, .wrIrqE 0x81), (0x1D70901, .wrIrqR 0x01), (0x1D70A7E, .wrKeys 0x7E), (0x1D70B11, .wrTimerLo 0x11),
   (0x1D70C12, .wrTimerHi 0x12), (0x1D70D28, .wrRealW 0x28), (0x1D70E19, .wrRealH 0x19), (0x1D70F03, .wrControl 0x03),
   (0x1D71006, .wrCFillOut 0x06), (0x1D711AA, .wrUnknown 0x11 0xAA), (0x1D7FF55, .wrUnknown 0xFF 0x55),
   (0x1D78012, .wrPal 0 0x12), (0x1D7DF34, .wrPal 95 0x34)]

/-- VideoRAM under the map after reset: text at 0x0400, colour at 0xD800. -/
def videoWords : List (Nat × Instr) :=
  [(0x0040000, .rdText 0), (0x007FF00, .rdText 1023), (0x1040088, .wrText 0 0x88), (0x107E72A, .wrText 999 0x2A),
   (0x0D80000, .rdColor 0), (0x0DBFF00, .rdColor 1023), (0x1D80061, .wrColor 0 0x61), (0x1DBFF0F, .wrColor 1023 0x0F)]

theorem test_decode_reads : ∀ p ∈ readWords, decodeTableWord 32 p.1 = some p.2 := by decide

theorem test_decode_writes : ∀ p ∈ writeWords, decodeTableWord 32 p.1 = some p.2 := by decide

theorem test_decode_video : ∀ p ∈ videoWords, decodeTableWord 32 p.1 = some p.2 := by decide

theorem test_encode_words :
    ∀ p ∈ readWords ++ writeWords ++ videoWords, encode .afterReset p.2 = .bus (BitVec.ofNat 25 p.1) := by decide

/-- A read ignores its data field (R80). -/
theorem test_decode_read_data : decodeTableWord 32 0x0D700FF = some .rdWinX := by decide

/-- The addresses next to the ranges are not the block's (95_test_vectors.md V13 #17, #18). -/
theorem test_decode_neighbours :
    decodeTableWord 32 0x103FF00 = none ∧ decodeTableWord 32 0x1080000 = none ∧ decodeTableWord 32 0x1D6FF00 = none
      ∧ decodeTableWord 32 0x1DC0000 = none ∧ decodeTableWord 32 0x2000000 = none := by decide

theorem test_decode_events :
    decodeTableWord 8 0x00 = some (.reset 0 0) ∧ decodeTableWord 8 0x01 = some (.load 0 [])
      ∧ decodeTableWord 8 0x02 = some (.start 0) ∧ decodeTableWord 8 0x03 = some .tick
      ∧ decodeTableWord 8 0x04 = some (.key 0) ∧ decodeTableWord 8 0x05 = some (.advance 0)
      ∧ decodeTableWord 8 0x06 = some (.resize 0 0) ∧ decodeTableWord 8 0x07 = some .cpuStep
      ∧ decodeTableWord 8 0x08 = none := by decide

theorem test_decode_event_operands :
    decodePacket .afterReset (.evt 0x00 [80, 30]) = .op (.reset 80 30)
      ∧ decodePacket .afterReset (.evt 0x01 [0x0801, 0x9E, 0x20]) = .op (.load 0x0801 [0x9E, 0x20])
      ∧ decodePacket .afterReset (.evt 0x02 [0x1000]) = .op (.start 0x1000)
      ∧ decodePacket .afterReset (.evt 0x04 [0x41]) = .op (.key 0x41)
      ∧ decodePacket .afterReset (.evt 0x05 [20000]) = .op (.advance 20000)
      ∧ decodePacket .afterReset (.evt 0x06 [100, 40]) = .op (.resize 100 40) := by decide

theorem test_decode_event_refused :
    decodePacket .afterReset (.evt 0x03 [1]) = .badOperands 0x03
      ∧ decodePacket .afterReset (.evt 0x04 [256]) = .badOperands 0x04
      ∧ decodePacket .afterReset (.evt 0x09 []) = .unknownEvent 0x09 := by decide

/-! ### Single steps (95_test_vectors.md V11 to V17) -/

/-- V11 #1 to #4: the reset registers. -/
theorem test_rd_reset_registers :
    after (run [.rdWinX, .rdWinY, .rdWinW, .rdWinH, .rdTextPtr, .rdColorPtr] .reset) State.rdOut
      = some [20, 2, 40, 25, 0x04, 0xD8] := by decide

/-- V11 #6 to #8. -/
theorem test_plain_writes_read_back :
    after (run [.wrCharset 0x01, .wrFreq 0x32, .wrIrqE 0x81, .rdCharset, .rdFreq, .rdIrqE] .reset) State.rdOut
      = some [0x01, 0x32, 0x81] := by decide

/-- V11 #9, #10: the live size after a resize, the cached one unchanged. -/
theorem test_resize_is_live :
    after (run [.rdRealW, .rdRealH, .resize 100 40, .rdRealW, .rdRealH] .reset) (fun s => (s.rdOut, s.crw, s.crh))
      = some ([80, 30, 100, 40], 80, 30) := by decide

/-- V11 #11 to #13: ignored writes. -/
theorem test_ignored_writes :
    after (run [.wrRealW 0x28, .wrRealH 0x19, .wrUnknown 0x11 0xAA, .wrTimerLo 1, .wrTimerHi 1, .rdUnknown 0x11, .rdRealW]
      .reset) State.rdOut = some [0, 80] := by decide

/-- V11 #15, #16. -/
theorem test_palette_ends :
    after (run [.wrPal 0 0x12, .wrPal 95 0x34, .rdPal 0, .rdPal 95] base) State.rdOut = some [0x12, 0x34] := by decide

/-- V12 #1 to #4. -/
theorem test_keys :
    after (run [.rdKeys, .key 0x41, .key 0x42, .wrKeys 0, .rdKeys, .rdKeys, .rdKeys] .reset) State.rdOut
      = some [0, 0x41, 0x42, 0] := by decide

/-- V12 #5 to #7. -/
theorem test_irqR_toggles :
    after (run [.wrIrqR 0x81, .rdIrqR, .wrIrqR 0xFF, .rdIrqR] .reset) (fun s => (s.rdOut, s.irqOut))
      = some ([0x81, 0x7E], []) := by decide

/-- V12 #9, #13, #14. -/
theorem test_timer :
    after (run [.advance 1234567, .rdTimerLo, .rdTimerHi] .reset) State.rdOut = some [0x39, 0x30]
      ∧ after (run [.advance 6553600, .rdTimerLo, .rdTimerHi] .reset) State.rdOut = some [0, 0]
      ∧ after (run [.advance 25599, .rdTimerLo, .advance 1, .rdTimerHi] .reset) State.rdOut = some [0xFF, 0x01] := by
  decide

/-- V13 #1: sizes. -/
theorem test_sizes :
    (fun w h => ramSize { State.reset.x with winW := w, winH := h }) 40 25 = 1024
      ∧ (fun w h => ramSize { State.reset.x with winW := w, winH := h }) 255 255 = 65280
      ∧ (fun w h => ramSize { State.reset.x with winW := w, winH := h }) 64 5 = 512
      ∧ (fun w h => ramSize { State.reset.x with winW := w, winH := h }) 0 25 = 0 := by decide

/-- V13 #2: a wider window; the old bytes kept, nothing drawn. -/
theorem test_wrWinW_grows :
    after (exec (.wrWinW 0x50) base) (fun s => (s.size, s.chr[1023]?, s.col[1023]?, s.conOut, s.decode 0x0BFF))
      = some (2048, some 0, some 0x61, [], .text 2047) := by decide +kernel

/-- V13 #8: exactly to the top of the address space. -/
theorem test_wrWinH_to_the_top : after (exec (.wrWinH 0xFF) base) (fun s => s.decode 0xFFFF) = some (.color 10239) := by
  decide +kernel

/-- V13 #5, #6, #10, #11: the text pointer. -/
theorem test_wrTextPtr :
    after (exec (.wrTextPtr 0xFC) base) (fun s => s.decode 0xFFFF) = some (.text 1023)
      ∧ after (exec (.wrTextPtr 0xFD) base) (fun s => (s.x.textPtr, s.cfgErr))
          = some (0x04, some { kind := .windowTooLarge, reg := .textPtr, value := 0xFD })
      ∧ after (exec (.wrTextPtr 0xD4) base) State.x = none ∧ after (exec (.wrTextPtr 0xD8) base) State.x = none := by
  decide +kernel

/-- V13 #12: an overlap is refused by name; V13 #7: to the top of the address space. -/
theorem test_wrColorPtr :
    refusal (exec (.wrColorPtr 0x06) base) = some .overlappingRanges
      ∧ after (exec (.wrColorPtr 0xFC) base) (fun s => s.decode 0xFFFE) = some (.color 1022) := by decide +kernel

/-- V13 #15 and the row of V2. -/
theorem test_position_writes :
    after (run [.wrWinX 200, .wrWinY 100, .wrText 0 1, .wrWinX 255, .wrWinY 255, .wrText 999 1] base)
      (fun s => cursors s.conOut) = some [(40, 10), (54, 9)] := by decide +kernel

/-- Four palette bytes that differ: `P(0, 1)`, `P(1, 6)`, `P(0, 6)`, `P(1, 1)`, each first channel (V14 #15). -/
def paletteBase : State :=
  { base with
    pal := ((((base.pal.set 3 0xFF).set 66 0xA0).set 18 0x18).set 51 0x33) }

/-- V14 #1, #2, #14: colour lookup, plain, reversed, and with FG_NIBBLE high. -/
theorem test_wrText_colours :
    after (exec (.wrText 0 0x08) paletteBase) (fun s => (s.chr[0]?, cursors s.conOut, colors s.conOut))
        = some (some 0x08, [(20, 2)], [(⟨0xFF, 0, 0⟩, ⟨0xA0, 0, 0⟩)])
      ∧ after (exec (.wrText 0 0x88) paletteBase) (fun s => (s.col[0]?, colors s.conOut))
        = some (some 0x61, [(⟨0x18, 0, 0⟩, ⟨0x33, 0, 0⟩)])
      ∧ after (exec (.wrText 0 0x08) { paletteBase with par := { base.par with fgNibble := .high } })
        (fun s => colors s.conOut) = some [(⟨0x18, 0, 0⟩, ⟨0x33, 0, 0⟩)] := by decide +kernel

/-- V14 #3, V3: a colour write redraws with the stored character's bit 7; both bytes read back. -/
theorem test_wrColor :
    after (run [.wrText 0 0x88, .wrColor 0 0x61, .rdText 0, .rdColor 0] paletteBase)
      (fun s => (s.rdOut, colors s.conOut))
        = some ([0x88, 0x61], [(⟨0x18, 0, 0⟩, ⟨0x33, 0, 0⟩), (⟨0x18, 0, 0⟩, ⟨0x33, 0, 0⟩)]) := by decide +kernel

/-- V14 #5 to #7: the last window cell and the padding. -/
theorem test_padding :
    after (run [.wrText 999 0x2A, .wrText 1010 0x2A, .wrText 1023 0x2A] base) (fun s => cursors s.conOut)
      = some [(59, 26), (30, 27), (43, 27)] := by decide +kernel

/-- V15 #2, #3. -/
theorem test_inWindow :
    inWindow base 20 2 = true ∧ inWindow base 59 26 = true ∧ inWindow base 19 2 = false ∧ inWindow base 60 2 = false
      ∧ inWindow base 20 1 = false ∧ inWindow base 20 27 = false
      ∧ inWindow { base with x := { base.x with winX := 70 } } 29 5 = true
      ∧ inWindow { base with x := { base.x with winX := 70 } } 30 5 = false := by decide

/-- V15 #1, #7: 1400 cells, the first and the last, the latch with all its bits. -/
theorem test_wrCFillOut :
    after (exec (.wrCFillOut 0xF6) base)
      (fun s => (s.x.cFillOut, (cursors s.conOut).length, (cursors s.conOut).head?, (cursors s.conOut).getLast?))
        = some (0xF6, 1400, some (0, 0), some (79, 29)) := by decide +kernel

/-- V16 #1: START. -/
theorem test_start :
    after (run [.advance 5000, .start 0x1000] base)
      (fun s => (s.pc, s.startT, s.nextUpdate, s.sched, (cursors s.conOut).length))
        = some (0x1000, 5000, 15000, .running, 1400) := by decide +kernel

/-- A running machine with the timer enabled, its deadline at 15000 and the time 15200 (V16 #3). -/
def running : State :=
  { base with sched := .running, nextUpdate := 15000, now := 15200, x := { base.x with irqE := 0x01 } }

/-- The same with the timer's interrupt not enabled (V16 #6). -/
def quiet : State := { running with x := { running.x with irqE := 0x00 } }

/-- V16 #3, #4: a tick with an edge, one without. -/
theorem test_tick :
    after (exec .tick running) (fun s => (s.nextUpdate, s.conOut, s.x.irqR, s.irqOut))
        = some (35000, [.flush], 0x01, [0x1234])
      ∧ after (run [.tick, .advance 20000, .tick] running) State.irqOut = some [0x1234] := by decide

/-- V16 #2: not enabled before the deadline. -/
theorem test_tick_not_enabled : after (exec .tick { running with now := 14999 }) State.irqOut = none := by decide

/-- V16: both bits of Control: the interrupt, two flushes, Halted; the deadline stays. -/
theorem test_wrControl_both :
    after (exec (.wrControl 0x03) running) (fun s => (s.irqOut, s.conOut, s.sched, s.nextUpdate))
      = some ([0x1234], [.flush, .flush], .halted, 15000) := by decide

/-- V8: a CPU step that writes Control halts. -/
theorem test_cpuStep_halts :
    after (exec .cpuStep { running with cpuq := [[0x1D70F01]] }) (fun s => (s.sched, s.haltReq, s.cpuq))
      = some (.halted, true, []) := by decide

/-- A CPU step's plain accesses. -/
theorem test_cpuStep_plain :
    after (exec .cpuStep { running with cpuq := [[0x1200077, 0x0200000]] }) State.rdOut = some [0x77] := by decide

/-- V5: the auto-start address from the image, and START with it. -/
theorem test_load_autostart :
    after (exec (.load 0x0801 [0x9E, 0x20, 0x32, 0x30, 0x36, 0x34]) base) (fun s => (s.autostart, s.mem.read 0x0803))
        = some (some 0x0810, 0x32)
      ∧ startTarget { base with autostart := some 0x0810 } 0x0801 = 0x0810
      ∧ startTarget { base with autostart := some 0x0810 } 0x0802 = 0x0802 := by decide +kernel

/-- V17: an image into the text range is drawn, in row 2 from column 20. -/
theorem test_load_draws :
    after (exec (.load 0x0400 [0x08, 0x05]) base) (fun s => (cursors s.conOut, s.chr[1]?))
      = some ([(20, 2), (21, 2)], some 0x05) := by decide +kernel

/-- V11 #5: reset on a console of 81 by 26. -/
theorem test_reset_81_26 :
    after (exec (.reset 81 26) base) (fun s => (s.x.winX, s.x.winY, s.crw, s.size)) = some (20, 0, 81, 1024) := by
  decide +kernel

/-- A table word runs as the next operation. -/
theorem test_step_runs_the_word :
    after (step (State.reset.withFetchWord 32 0x1D70601)) (fun s => s.x.charset) = some 0x01
      ∧ after (step (State.reset.withFetchWord 8 0x05)) State.now = some 0 := by decide

/-! ### For each statement with hypotheses, a state and operands that meet them -/

theorem base_inv : base.Inv := by
  have hs : base.size = 1024 := by decide
  constructor
  case chr_size => rw [hs]; simp only [base, List.length_replicate]
  case col_size => rw [hs]; simp only [base, List.length_replicate]
  case keys_fit => intro d h; cases h
  all_goals decide

/-- EncodeThenDecodeReturnsTheOperation: the ends of the palette, of an unknown range and of VideoRAM. -/
theorem wit_encode_then_decode :
    0x11 ≤ AddrMap.afterReset.palOff.toNat ∧ AddrMap.afterReset.palOff.toNat ≤ 0xA0
      ∧ AddrMap.afterReset.valid = true ∧ AddrMap.afterReset.disjoint = true
      ∧ (Instr.rdPal 95).wf .afterReset = true ∧ (Instr.wrUnknown 0x7F 1).wf .afterReset = true
      ∧ (Instr.wrText 1023 0x2A).wf .afterReset = true ∧ (Instr.load 0xFFFF [1]).wf .afterReset = true := by decide

/-- DecodedOperationEncodesToItsTransaction. -/
theorem wit_decoded_operation :
    decodeBus .afterReset 0x107FF2A = .op (.wrText 1023 0x2A) ∧ decodeBus .afterReset 0x0D70099 = .op .rdWinX := by decide

/-- TransactionIsAnOperationExactlyInTheRanges, the clause for transactions that are none: both sides of `rw`. -/
theorem wit_no_operation :
    (∀ i, decodeBus .afterReset 0x1080055 ≠ .op i) ∧ ∀ i, decodeBus .afterReset 0x003FF00 ≠ .op i := by
  constructor <;> intro i h <;> cases h

/-- OffsetTranslationRoundTrips: the last address of either range. -/
theorem wit_offset_translation :
    AddrMap.afterReset.valid = true ∧ AddrMap.afterReset.disjoint = true
      ∧ decodeAddr .afterReset 0x07FF = .text 1023 ∧ decodeAddr .afterReset 0xDBFF = .color 1023
      ∧ 1023 < AddrMap.afterReset.size := by decide

/-- StepRunsTheDecodedOperation. -/
theorem wit_step_runs :
    ({ base with inbox := [.bus 0x1D70601] } : State).inbox = .bus 0x1D70601 :: []
      ∧ decodePacket ({ base with inbox := [.bus 0x1D70601] } : State).map (.bus 0x1D70601) = .op (.wrCharset 1) := by
  decide

/-- UnmappedTransactionReachesPlainMemory: a read and a write, next to the text range. -/
theorem wit_unmapped :
    decodeAddr base.map (0x1080055 : BusWord).addr = .none ∧ (0x1080055 : BusWord).isWrite = true
      ∧ decodeAddr base.map (0x003FF00 : BusWord).addr = .none ∧ (0x003FF00 : BusWord).isWrite = false := by decide

/-- EveryStepKeepsTheInvariant. -/
theorem wit_every_step :
    ({ base with inbox := [.bus 0x1D70601] } : State).Inv
      ∧ ∃ t, step { base with inbox := [.bus 0x1D70601] } = .next t :=
  ⟨{ base_inv with }, _, rfl⟩

/-- ParametersAndRegisterPageNeverMove, OutputTracesOnlyGrow: a step that is no RESET. -/
theorem wit_step_without_reset :
    (∃ t, step { base with inbox := [.evt 0x05 [3]] } = .next t)
      ∧ ∀ w h, decodePacket base.map (.evt 0x05 [3]) ≠ .op (.reset w h) :=
  ⟨⟨_, rfl⟩, fun _ _ h => by cases h⟩

/-- SchedulerTransitions: a step from each scheduler state, and one with a halt requested and an error recorded. -/
theorem wit_scheduler_states :
    (∃ t, step { base with sched := .halted, inbox := [.evt 0x05 [3]] } = .next t)
      ∧ (∃ t, step { base with sched := .running, inbox := [.bus 0x1D70F01] } = .next t)
      ∧ (∃ t, step { base with sched := .stopped, inbox := [.evt 0x02 [0x1000]] } = .next t)
      ∧ ∃ t, step
          { base with
            haltReq := true, cfgErr := some { kind := .windowTooLarge, reg := .winW, value := 0xFF }
            inbox := [.evt 0x05 [3]] } = .next t :=
  ⟨⟨_, rfl⟩, ⟨_, rfl⟩, ⟨_, rfl⟩, _, rfl⟩

/-- KeysReadDrainsOneKey: both clauses. -/
theorem wit_keys : base.keyq = [] ∧ ({ base with keyq := [0x41, 0x42] } : State).keyq = 0x41 :: [0x42] := by decide

/-- RealSizeReadsAreLive: the ends of the range and their neighbours, for all four clauses. -/
theorem wit_real_size :
    (1 ≤ ({ base with cw := 1, ch := 255 } : State).cw ∧ ({ base with cw := 1, ch := 255 } : State).cw ≤ 255)
      ∧ (1 ≤ ({ base with cw := 1, ch := 255 } : State).ch ∧ ({ base with cw := 1, ch := 255 } : State).ch ≤ 255)
      ∧ ¬(1 ≤ ({ base with cw := 0, ch := 256 } : State).cw ∧ ({ base with cw := 0, ch := 256 } : State).cw ≤ 255)
      ∧ ¬(1 ≤ ({ base with cw := 0, ch := 256 } : State).ch ∧ ({ base with cw := 0, ch := 256 } : State).ch ≤ 255) := by
  decide

/-- UnknownRegistersReadZeroAndIgnoreWrites: the four ends of the unknown offsets. -/
theorem wit_unknown :
    ∀ off ∈ ([0x11, 0x7F, 0xE0, 0xFF] : List Byte),
      0x10 < off.toNat
        ∧ ¬(base.par.palOff.toNat ≤ off.toNat ∧ off.toNat ≤ base.par.palOff.toNat + 95) := by decide

/-- PaletteWriteThenRead: the same byte and two different ones. -/
theorem wit_palette : (0 < 96 ∧ 0 < 96) ∧ (95 < 96 ∧ 0 < 96) := by decide

/-- GeometryWriteStoresAndRemaps: a size write, and a pointer write that ends at the top of the address space. -/
theorem wit_geometry :
    ((mapOf base.par (base.x.set .winW 0x50)).valid = true ∧ (mapOf base.par (base.x.set .winW 0x50)).disjoint = true)
      ∧ (mapOf base.par (base.x.set .textPtr 0xFC)).valid = true
      ∧ (mapOf base.par (base.x.set .textPtr 0xFC)).disjoint = true := by decide

/-- PositionWriteAlwaysCompletes. -/
theorem wit_position : base.Inv := base_inv

/-- InvalidGeometryWriteRaisesConfigError: the first text pointer that is too high. -/
theorem wit_invalid_geometry :
    65536 < max (base.x.set .textPtr 0xFD).textPtr.toNat (base.x.set .textPtr 0xFD).colorPtr.toNat * 256
        + ((base.x.set .textPtr 0xFD).winW.toNat * (base.x.set .textPtr 0xFD).winH.toNat + 255) / 256 * 256 := by decide

/-- OverlappingGeometryWriteIsRefused: the register page, and the other pointer. -/
theorem wit_overlap :
    ((mapOf base.par (base.x.set .textPtr 0xD4)).valid = true ∧ (mapOf base.par (base.x.set .textPtr 0xD4)).disjoint = false)
      ∧ (mapOf base.par (base.x.set .textPtr 0xD8)).valid = true
      ∧ (mapOf base.par (base.x.set .textPtr 0xD8)).disjoint = false := by decide

/-- PointerWriteMovesTheContent: both clauses. -/
theorem wit_pointer :
    base.Inv ∧ base.cfgErr = none ∧ after (exec (.wrTextPtr 0x10) base) State.cfgErr = some base.cfgErr
      ∧ after (exec (.wrColorPtr 0xFC) base) State.cfgErr = some base.cfgErr ∧ 1023 < base.size :=
  ⟨base_inv, by decide +kernel⟩

/-- IrqRWriteInvertsTheGivenBits, the acknowledge: a timer bit that is set, and one that is clear. -/
theorem wit_irqR :
    (0x01 : Byte) = 1#8 <<< base.par.timerBit.val ∧ base.x.irqR &&& 0x01 = 0
      ∧ ({ base with x := { base.x with irqR := 0x81 } } : State).x.irqR &&& 0x01 ≠ 0 := by decide

/-- ControlWriteHalts: its three clauses. -/
theorem wit_control :
    ((0xFC : Byte).getLsbD 1 = false ∧ (0xFC : Byte).getLsbD 0 = false)
      ∧ ((0x01 : Byte).getLsbD 1 = false ∧ (0x01 : Byte).getLsbD 0 = true ∧ running.sched = .running)
      ∧ base.sched ≠ .running := by decide

/-- ForcedTickRunsTheTickBody: without an edge, with an enabled one. -/
theorem wit_forced_tick :
    (0x02 : Byte).getLsbD 1 = true ∧ (0x02 : Byte).getLsbD 0 = false
      ∧ dimOk base.cw = true ∧ dimOk base.ch = true ∧ dimOk running.cw = true ∧ dimOk running.ch = true
      ∧ ¬(base.x.irqR &&& timerMask base.par = 0 ∧ base.x.irqE &&& timerMask base.par ≠ 0)
      ∧ running.x.irqR &&& timerMask running.par = 0 ∧ running.x.irqE &&& timerMask running.par ≠ 0
      ∧ running.decode running.par.irqVector = .none ∧ running.decode (running.par.irqVector + 1) = .none := by decide

/-- ForcedTickComesBeforeTheHalt. -/
theorem wit_forced_tick_and_halt :
    (0x03 : Byte).getLsbD 1 = true ∧ (0x03 : Byte).getLsbD 0 = true ∧ ∃ t, exec (.wrControl 0x02) running = .next t :=
  ⟨rfl, rfl, _, rfl⟩

/-- InWindowIsTheImageOfTheWindow, CFillOutPaintsExactlyOutsideTheWindow: the last terminal cell, the window's first
and last cells and their neighbours outside, and a cell beyond the terminal. -/
theorem wit_in_window :
    (79 < base.crw ∧ 29 < base.crh ∧ inWindow base 79 29 = false)
      ∧ (inWindow base 20 2 = true ∧ inWindow base 59 26 = true)
      ∧ (19 < base.crw ∧ 2 < base.crh ∧ inWindow base 19 2 = false) ∧ base.crw ≤ 80 := by decide

/-- TextWriteStoresAndDraws, ColorWriteStoresAndRedraws, VideoRamReadsReturnTheLastWrite: the last offset; a read at
the offset written and at another. -/
theorem wit_video :
    base.x.winW ≠ 0 ∧ base.x.winH ≠ 0 ∧ 1023 < base.chr.length ∧ 1023 < base.col.length
      ∧ base.chr[1023]? = some 0 ∧ base.col[1023]? = some 0x61 ∧ base.chr[0]? = some 0 ∧ base.col[0]? = some 0x61 := by
  decide +kernel

/-- ZeroDimensionDropsVideoWrites: either dimension. -/
theorem wit_zero_dimension :
    ({ base with x := { base.x with winW := 0 } } : State).x.winW = 0
      ∧ ({ base with x := { base.x with winH := 0 } } : State).x.winH = 0 := by decide

/-- DrawnCellShowsOnTheScreen: the last offset, by either write. -/
theorem wit_drawn_cell :
    base.Inv ∧ 1023 < base.size ∧ (∃ t, exec (.wrText 1023 0x2A) base = .next t)
      ∧ base.chr[1023]? = some 0 ∧ ∃ t, exec (.wrColor 1023 0x2A) base = .next t :=
  ⟨base_inv, by decide, of_runs (by decide +kernel), by decide +kernel, of_runs (by decide +kernel)⟩

/-- DrawingStaysOnTheTerminal: each of the four operations. -/
theorem wit_drawing :
    1 ≤ base.crw ∧ 1 ≤ base.crh ∧ (∃ t, exec (.wrText 1023 1) base = .next t) ∧ (∃ t, exec (.wrColor 0 1) base = .next t)
      ∧ (∃ t, exec (.wrCFillOut 6) base = .next t) ∧ ∃ t, exec (.start 0x1000) base = .next t :=
  ⟨by decide, by decide, of_runs (by decide +kernel), of_runs (by decide +kernel), of_runs (by decide +kernel),
    of_runs (by decide +kernel)⟩

/-- StartFramesAndRuns: its three clauses, and a cached address for the canonical entry. -/
theorem wit_start :
    (base.sched = .stopped ∧ base.haltReq = false) ∧ ({ base with haltReq := true } : State).haltReq = true
      ∧ running.sched ≠ .stopped
      ∧ (0x0810 : Word16) = (match ({ base with autostart := some 0x0810 } : State).autostart with
          | some a => if (0x0801 : Word16) = base.par.basicLoadAddr then a else 0x0801
          | none => 0x0801) := by decide

/-- TickLatchesAndRaisesOnAnEnabledEdge: at the deadline itself, both clauses. -/
theorem wit_tick :
    running.sched = .running ∧ ({ running with now := 15000 } : State).nextUpdate ≤ 15000
      ∧ dimOk running.cw = true ∧ dimOk running.ch = true
      ∧ (running.x.irqR &&& timerMask running.par = 0 ∧ running.x.irqE &&& timerMask running.par ≠ 0)
      ∧ running.decode running.par.irqVector = .none ∧ running.decode (running.par.irqVector + 1) = .none
      ∧ quiet.sched = .running ∧ quiet.nextUpdate ≤ quiet.now ∧ dimOk quiet.cw = true ∧ dimOk quiet.ch = true
      ∧ ¬(quiet.x.irqR &&& timerMask quiet.par = 0 ∧ quiet.x.irqE &&& timerMask quiet.par ≠ 0) := by decide

/-- TickRefusals: an enabled edge with the colour range over the vector; an enabled edge with the vector in plain
memory on a console of 256 columns; the same console, 0 rows, and no edge. A forced tick with bit 0 clear and set. -/
theorem wit_tick_refusals :
    (running.sched = .running ∧ running.nextUpdate ≤ running.now)
      ∧ ((0x02 : Byte).getLsbD 1 = true ∧ (0x03 : Byte).getLsbD 1 = true)
      ∧ (running.x.irqR &&& timerMask running.par = 0 ∧ running.x.irqE &&& timerMask running.par ≠ 0)
      ∧ ¬(({ running with x := { running.x with colorPtr := 0xFC } } : State).decode running.par.irqVector = .none
        ∧ ({ running with x := { running.x with colorPtr := 0xFC } } : State).decode (running.par.irqVector + 1) = .none)
      ∧ (running.decode running.par.irqVector = .none ∧ running.decode (running.par.irqVector + 1) = .none)
      ∧ ¬(dimOk ({ running with cw := 256 } : State).cw = true ∧ dimOk ({ running with cw := 256 } : State).ch = true)
      ∧ ¬(dimOk ({ quiet with ch := 0 } : State).cw = true ∧ dimOk ({ quiet with ch := 0 } : State).ch = true)
      ∧ (quiet.sched = .running ∧ quiet.nextUpdate ≤ quiet.now)
      ∧ ¬(quiet.x.irqR &&& timerMask quiet.par = 0 ∧ quiet.x.irqE &&& timerMask quiet.par ≠ 0) := by decide

/-- OnlyTheTickBodyRaises: the software XOR that sets the timer bit. -/
theorem wit_only_tick : ∃ t, exec (.wrIrqR 0x01) running = .next t := ⟨_, rfl⟩

/-- SecondUpdateRaisesNothing: both clauses. -/
theorem wit_second_update :
    (∃ t, doUpdate running = .next t) ∧ ({ base with x := { base.x with irqR := 0x01 } } : State).x.irqR
        &&& timerMask base.par ≠ 0 ∧ ∃ t, doUpdate { base with x := { base.x with irqR := 0x01 } } = .next t :=
  ⟨⟨_, rfl⟩, by decide, _, rfl⟩

/-- HaltMakesTheScreenVisible: a Control write, and START after a halt was requested. -/
theorem wit_halt :
    (running.sched = .running ∧ (0x01 : Byte).getLsbD 0 = true ∧ ∃ t, exec (.wrControl 0x01) running = .next t)
      ∧ ({ base with haltReq := true } : State).sched = .stopped ∧ ({ base with haltReq := true } : State).haltReq = true
      ∧ ∃ t, exec (.start 0x1000) { base with haltReq := true } = .next t :=
  ⟨⟨rfl, rfl, _, rfl⟩, rfl, rfl, of_runs (by decide +kernel)⟩

/-- EnvironmentEventsAlwaysComplete: an unbounded buffer, one with room for one key, a full one. -/
theorem wit_environment :
    base.par.keybufDepth = none
      ∧ (({ base with par := { base.par with keybufDepth := some 1 } } : State).par.keybufDepth = some 1
          ∧ base.keyq.length < 1)
      ∧ 1 ≤ ({ base with keyq := [0x41] } : State).keyq.length := by decide

/-- CpuStepPerformsItsAccess: one access, and two of which the first leaves the machine running. -/
theorem wit_cpuStep :
    running.sched = .running ∧ decodeBus running.map 0x1D70F01 = .op (.wrControl 1)
      ∧ decodeBus running.map 0x0D70000 = .op .rdWinX
      ∧ after (exec .rdWinX { running with cpuq := [] }) State.sched = some .running := by decide

/-- CpuStepOutsideTheRangesTouchesPlainMemoryOnly: a write and a read next to the ranges, each of which may stand
first, and a step without accesses. -/
theorem wit_cpuStep_plain :
    running.sched = .running
      ∧ ((0x1080077 : BusWord).isWrite = true ∧ decodeAddr running.map (0x1080077 : BusWord).addr = .none)
      ∧ ((0x0DC0000 : BusWord).isWrite = false ∧ decodeAddr running.map (0x0DC0000 : BusWord).addr = .none)
      ∧ ({ running with cpuq := [[], [0x1080077, 0x1D70F01]] } : State).cpuq = [] :: [[0x1080077, 0x1D70F01]] := by
  decide

/-- LoadCopiesTheImage: an image at the canonical address with a number, and one that ends at the top. -/
theorem wit_load :
    ((0x0801 : Word16).toNat + 6 ≤ 65536
        ∧ (∀ k, k < 6 → base.decode (BitVec.ofNat 16 ((0x0801 : Word16).toNat + k)) = .none)
        ∧ ∀ n, scanAutostart base.par.autostartToken [0x9E, 0x20, 0x32, 0x30, 0x36, 0x34] = some n → n ≤ 65535)
      ∧ (0xFFFF : Word16).toNat + 1 ≤ 65536 ∧ base.decode 0xFFFF = .none := by
  refine ⟨⟨by decide, by decide, fun n h => ?_⟩, by decide, by decide⟩
  have e : scanAutostart base.par.autostartToken [0x9E, 0x20, 0x32, 0x30, 0x36, 0x34] = some 2064 := by decide
  rw [e] at h
  cases h
  decide

/-- LoadedByteAtAMappedAddressIsABusWrite: a byte on IrqE; a text pointer written by the first byte of a longer image; a
byte that is refused; plain bytes at the canonical address, just below it, and at the top. -/
theorem wit_load_mapped :
    ((0xD708 : Word16) ≠ base.par.basicLoadAddr ∧ (0xD708 : Word16) + 1 ≠ base.par.basicLoadAddr
        ∧ decodeBus base.map (busWord true 0xD708 0x01) = .op (.wrIrqE 0x01))
      ∧ ((0xD704 : Word16).toNat + [(0x10 : Byte), 0xD8].length ≤ 65536
        ∧ decodeBus base.map (busWord true 0xD704 0x10) = .op (.wrTextPtr 0x10)
        ∧ runs (exec (.wrTextPtr 0x10) base) = true)
      ∧ (decodeBus base.map (busWord true 0xD704 0xD8) = .op (.wrTextPtr 0xD8)
        ∧ refusal (exec (.wrTextPtr 0xD8) base) = some .overlappingRanges)
      ∧ decodeAddr base.map 0x0801 = .none ∧ decodeAddr base.map 0x0800 = .none ∧ decodeAddr base.map 0xFFFF = .none
      ∧ scanAutostart base.par.autostartToken [0x9E, 0x37] = some 7 ∧ runs (exec (.load 0x0802 [0x37]) base) = true := by
  decide +kernel

/-- V17 #18, and an image whose first byte moves the text range under its second. -/
theorem test_load_in_order :
    after (exec (.load 0xD6FF [0x11, 0x1E]) base) (fun s => (s.mem.read 0xD6FF, s.x.winX)) = some (0x11, 0x1E)
      ∧ after (exec (.load 0xD704 [0x10, 0xE0]) base) (fun s => (s.decode 0x1000, s.decode 0xE000))
        = some (.text 0, .color 0) := by decide +kernel

/-- LoadRefusals: one byte too many; the number 65536. -/
theorem wit_load_refusals :
    65536 < (0xFFFF : Word16).toNat + [(1 : Byte), 2].length
      ∧ (0x0801 : Word16) = base.par.basicLoadAddr
      ∧ (∀ k, k < 6 → base.decode (BitVec.ofNat 16 ((0x0801 : Word16).toNat + k)) = .none)
      ∧ scanAutostart base.par.autostartToken [0x9E, 0x36, 0x35, 0x35, 0x33, 0x36] = some 65536 := by decide

/-- ScanReadsTheDecimalAfterTheToken: the token at index 11, the last of the window. -/
theorem wit_scan :
    (List.replicate 11 (0 : Byte)).length < 12 ∧ (0x9E : Byte) ∉ List.replicate 11 (0 : Byte)
      ∧ ([2, 0, 6, 4] : List (Fin 10)) ≠ [] ∧ ¬(0x30 ≤ (0x3A : Byte).toNat ∧ (0x3A : Byte).toNat ≤ 0x39)
      ∧ ¬(0x30 ≤ (0x2F : Byte).toNat ∧ (0x2F : Byte).toNat ≤ 0x39) := by decide

/-- ScanWithoutTokenOrDigitsFindsNothing: a token at index 12 only; a token followed by no digit. -/
theorem wit_scan_nothing :
    (0x9E : Byte) ∉ (List.replicate 12 (0 : Byte) ++ [0x9E, 0x31]).take 12
      ∧ (List.replicate 11 (0 : Byte)).length < 12 ∧ (0x9E : Byte) ∉ List.replicate 11 (0 : Byte)
      ∧ (0x3A : Byte) ≠ 0x20 ∧ ¬(0x30 ≤ (0x3A : Byte).toNat ∧ (0x3A : Byte).toNat ≤ 0x39) := by decide

/-- ResetGivesTheResetValues: the smallest and the largest console; the default parameters give a good map. -/
theorem wit_reset :
    ∀ x : Regs, x.winW = 40 → x.winH = 25 → x.textPtr = base.par.textPtrReset → x.colorPtr = base.par.colorPtrReset →
      (mapOf base.par x).valid = true ∧ (mapOf base.par x).disjoint = true := by
  intro x hw hh ht hc
  have e : mapOf base.par x = .afterReset := by
    have hs : ramSize x = 1024 := by rw [ramSize, hw, hh]; decide
    rw [mapOf, ht, hc, hs]; rfl
  rw [e]
  decide

/-- ResetCompletesOrIsRefused: each clause, at the ends of the range of sizes. -/
theorem wit_reset_clauses :
    ¬(1 ≤ 0 ∧ 0 ≤ 255 ∧ 1 ≤ 25 ∧ 25 ≤ 255) ∧ (1 ≤ 1 ∧ 1 ≤ 255 ∧ 1 ≤ 255 ∧ 255 ≤ 255)
      ∧ (AddrMap.afterReset.valid = true ∧ AddrMap.afterReset.disjoint = true)
      ∧ ({ AddrMap.afterReset with textPtr := 0xFD } : AddrMap).valid = false
      ∧ ({ AddrMap.afterReset with textPtr := 0xD8 } : AddrMap).valid = true
      ∧ ({ AddrMap.afterReset with textPtr := 0xD8 } : AddrMap).disjoint = false := by decide

/-- DrivesStopWhenHalted. -/
theorem wit_drives :
    ({ base with sched := .halted, haltReq := true } : State).sched = .halted
      ∧ ({ base with sched := .halted, haltReq := true } : State).haltReq = true := by decide

/-- The part of what a drive answers. -/
def reported {α β : Type} (r : Host.Outcome α Fault Refusal) (f : α → β) : Option β :=
  match r with
  | .next a => some (f a)
  | .fault _ => none
  | .refused _ => none

/-- A core that halts with its first unit, of three it had to run. -/
def halting : State := { running with cpuq := [[0x1D70F01], [0x1200077], [0x1200077]] }

/-- HaltEndsTheQuantum: the halt in the first of the quantum's units; what would come before the others does not. -/
theorem wit_quantum :
    reported (execute 1 [[.advance 7]] halting) (fun e => (e.state.sched, e.state.haltReq, e.cyclesRun))
        = some (.halted, true, 1)
      ∧ reported (execute 3 [[.advance 7], [.advance 7, .key 1], []] halting)
          (fun e => (e.cyclesRun, e.state.now, e.state.keyq)) = some (1, 15207, []) := by decide

/-- ExecuteCountsTheUnitsItRuns: a quantum of two units of a core that has three to run, none of which halts; the
hypotheses of its law, in Running and outside it. -/
theorem wit_execute_counts :
    reported (execute 2 [[], [.advance 7, .resize 100 40], [.advance 7]] { running with cpuq := [[], [], []] })
        (fun e => (e.state.sched, e.cyclesRun, e.state.now, e.state.cw)) = some (.running, 2, 15207, 100)
      ∧ (∃ t e, exec .cpuStep { running with cpuq := [[], []] } = .next t ∧ execute 1 [[]] t = .next e)
      ∧ (∃ t, exec (.key 7) running = .next t)
      ∧ base.sched ≠ .running := ⟨by decide, ⟨_, _, rfl, rfl⟩, ⟨_, rfl⟩, by decide⟩

/-- A key that arrives before the second unit is what that unit reads from Keys (R65, R269, R120). -/
theorem test_key_inside_a_quantum :
    reported (execute 2 [[], [.key 0x0D]] { running with cpuq := [[], [0x0D70A00]] })
        (fun e => (e.state.rdOut, e.state.keyq)) = some (running.rdOut ++ [0x0D], []) := by decide

/-- UpdateReportsHaltedAndIdleApart, V8: a busy call with a tick due, and a call that halts. -/
theorem wit_update_reports :
    reported (updateCall 2 { units := [[.advance 7]], rest := [] } [.advance 1000] { running with cpuq := [[]] })
        (fun r => (r.halted, r.cpuIdle, r.ran, r.state.irqOut)) = some (false, false, true, [0x1234])
      ∧ (running.sched = .running ∧ running.nextUpdate ≤ running.now ∧ runs (exec .tick running) = true)
      ∧ reported (updateCall 2 { units := [[], [.advance 7]], rest := [] } [.advance 1000] halting)
        (fun r => (r.halted, r.cpuIdle, r.ran)) = some (true, false, true) := by decide

/-- UpdateReportsHaltedAndIdleApart: an idle call with the deadline one microsecond away, whose sleep is cut to T_SLEEP
and keeps its key. -/
theorem wit_update_idle :
    (quiet.haltReq = false ∧ ({ quiet with now := 14990 } : State).now + elapsed [.advance 9] < quiet.nextUpdate)
      ∧ reported (updateCall 2 { units := [], rest := [.advance 9] } [.advance 2000, .key 5] { quiet with now := 14990 })
        (fun r => (r.halted, r.cpuIdle, r.ran, r.state.now, r.state.keyq))
          = some (false, true, false, 15999, [5]) := by decide

/-- RunTakesTheTickWhenDue: a tick due at the deadline, none one microsecond before it, a halt in the quantum, an idle
core. -/
theorem wit_run_round :
    (running.sched = .running ∧ running.nextUpdate ≤ running.now ∧ runs (exec .tick running) = true)
      ∧ (execute 1 [] running = .next { state := running, cyclesRun := 0 } ∧ environment [] running = .next running)
      ∧ after (environment [.advance 9] { quiet with now := 14990 }) (fun u => decide (u.now < u.nextUpdate))
        = some true
      ∧ after (environment [.advance 10] { quiet with now := 14990 }) (fun u => decide (u.nextUpdate ≤ u.now))
        = some true
      ∧ reported (execute 2 [[], []] halting) (fun e => e.state.sched) = some .halted
      ∧ after (runDrive 1 [{ units := [], rest := [.key 5] }] running) (fun s => (s.keyq, s.irqOut))
        = some ([5], [0x1234]) :=
  ⟨by decide, ⟨rfl, rfl⟩, by decide, by decide, by decide, by decide⟩

end Sys2Proof.Tests
end

section
/-! What a step can do, said once: but for `START` and `RESET`, a step that answers is a row of elementary changes. An
invariant of every step is then proved for each elementary change, for `START` and for `RESET`. -/

namespace Sys2Proof.Machine

/-! ### Elementary changes -/

/-- One elementary change of a state, with what the model has tested before it makes it. -/
inductive Change (s : State) : State → Prop
  | byteGiven (v : Byte) : Change s (giveByte v s)
  | keyDrained (b : Byte) (rest : List Byte) (h : s.keyq = b :: rest) : Change s { s with keyq := rest }
  | valueDrawn : Change s s.drawn
  | remapped (x' : Regs) (hv : (mapOf s.par x').valid = true) (hd : (mapOf s.par x').disjoint = true) :
      Change s (remap x' s)
  | errorRaised (k : CfgKind) (r : RegId) (v : Byte) : Change s (raiseConfigError k r v s)
  /-- A store into the register file that moves no range. -/
  | registersStored (x' : Regs) (h : mapOf s.par x' = s.map) : Change s { s with x := x' }
  | paletteStored (p : Vector Byte 96) : Change s { s with pal := p }
  | charStored (o : Nat) (v : Byte) : Change s { s with chr := s.chr.set o v }
  | colourStored (o : Nat) (v : Byte) : Change s { s with col := s.col.set o v }
  | emitted (cs : List ConCmd) : Change s (emit cs s)
  /-- A tick body, with the interrupt events that it raises (R215). -/
  | ticked (evs : List Word16) (hw : dimOk s.cw = true) (hh : dimOk s.ch = true) :
      Change s
        { s with
          conOut := s.conOut ++ [.flush], x := latchTimer s.par s.x, irqOut := s.irqOut ++ evs
          crw := s.cw, crh := s.ch }
  | halted : Change s (halt s)
  | plainWritten (a : Word16) (v : Byte) : Change s (plainWrite a v s)
  | autostartCached (a : Option Word16) : Change s { s with autostart := a }
  | deadlineMoved (n : Nat) : Change s { s with nextUpdate := n }
  | packetTaken (rest : List Packet) : Change s { s with inbox := rest }
  | accessesTaken (rest : List (List BusWord)) : Change s { s with cpuq := rest }
  | keyBuffered (b : Byte) (h : keyRoom s = true) : Change s { s with keyq := s.keyq ++ [b] }
  | timePassed (dt : Nat) : Change s { s with now := s.now + dt }
  | consoleResized (w h : Nat) : Change s { s with cw := w, ch := h }

/-- A row of elementary changes. -/
abbrev Changes : State → State → Prop := Relation.ReflTransGen Change

theorem Change.changes {s t : State} (h : Change s t) : Changes s t := .single h

/-! ### The operations as rows of elementary changes -/

theorem geomWrite_changes {r : RegId} {v : Byte} {s t : State} (h : geomWrite r v s = .next t) : Changes s t := by
  rcases geomWrite_next h with ⟨hv, hd, rfl⟩ | ⟨-, rfl⟩
  · exact (Change.remapped _ hv hd).changes
  · exact (Change.errorRaised _ _ _).changes

theorem tickBody_changes {s t : State} (h : tickBody s = .next t) : Changes s t := by
  obtain ⟨hw, hh, evs, rfl, -⟩ := tickBody_next h
  exact (Change.ticked evs hw hh).changes

theorem drawCell_changes (o : Nat) (s : State) : Changes s (drawCell o s) := by
  unfold drawCell
  split
  · exact (Change.emitted _).changes
  · exact .refl

theorem execRdKeys_changes {s t : State} (h : execRdKeys s = .next t) : Changes s t := by
  unfold execRdKeys at h
  split at h
  · cases h; exact (Change.byteGiven _).changes
  · rename_i b rest hk
    cases h; exact (Change.keyDrained b rest hk).changes.tail (.byteGiven b)

theorem execWrPal_changes {i : Nat} {v : Byte} {s t : State} (h : execWrPal i v s = .next t) : Changes s t := by
  unfold execWrPal at h
  split at h <;> cases h
  exact (Change.paletteStored _).changes

theorem execWrText_changes {o : Nat} {v : Byte} {s t : State} (h : execWrText o v s = .next t) : Changes s t := by
  unfold execWrText at h
  split at h
  · split at h <;> cases h
    exact (Change.charStored o v).changes.trans (drawCell_changes _ _)
  · cases h; exact .refl

theorem execWrColor_changes {o : Nat} {v : Byte} {s t : State} (h : execWrColor o v s = .next t) : Changes s t := by
  unfold execWrColor at h
  split at h
  · split at h <;> cases h
    exact (Change.colourStored o v).changes.trans (drawCell_changes _ _)
  · cases h; exact .refl

/-- A Control write is at most a tick body and a halt (R146). -/
theorem execWrControl_changes {v : Byte} {s t : State} (h : execWrControl v s = .next t) : Changes s t := by
  obtain ⟨u, hu, rfl⟩ := execWrControl_next h
  have htick : Changes s u := by
    split at hu
    · exact tickBody_changes hu
    · cases hu; exact .refl
  split
  · exact htick.tail .halted
  · exact htick

theorem execWrCFillOut_changes {v : Byte} {s t : State} (h : execWrCFillOut v s = .next t) : Changes s t := by
  cases h
  exact (Change.registersStored (s.x.set .cFillOut v) rfl).changes.tail (.emitted _)

/-- Every bus operation is a row of elementary changes. -/
theorem busOp_changes {i : Instr} (hb : isBusOp i = true) {s t : State} (h : exec i s = .next t) : Changes s t := by
  cases i with
  | rdWinX | rdWinY | rdWinW | rdWinH | rdTextPtr | rdColorPtr | rdCharset | rdFreq | rdIrqE | rdIrqR
  | rdTimerLo | rdTimerHi | rdUnknown => cases h; exact (Change.byteGiven _).changes
  | rdKeys => exact execRdKeys_changes h
  | rdRealW | rdRealH | rdPal | rdText | rdColor =>
    simp only [exec, execRdRealW, execRdRealH, execRdPal, execRdText, execRdColor] at h
    split at h <;> cases h
    exact (Change.byteGiven _).changes
  | rdControl | rdCFillOut => cases h; exact Change.valueDrawn.changes.tail (.byteGiven _)
  | wrWinX | wrWinY | wrWinW | wrWinH | wrTextPtr | wrColorPtr => exact geomWrite_changes h
  | wrCharset v => cases h; exact (Change.registersStored (s.x.set .charset v) rfl).changes
  | wrFreq v => cases h; exact (Change.registersStored (s.x.set .freq v) rfl).changes
  | wrIrqE v => cases h; exact (Change.registersStored (s.x.set .irqE v) rfl).changes
  | wrIrqR v => cases h; exact (Change.registersStored (toggleIrqR v s.x) rfl).changes
  | wrPal => exact execWrPal_changes h
  | wrKeys | wrTimerLo | wrTimerHi | wrRealW | wrRealH | wrUnknown => cases h; exact .refl
  | wrControl => exact execWrControl_changes h
  | wrCFillOut => exact execWrCFillOut_changes h
  | wrText => exact execWrText_changes h
  | wrColor => exact execWrColor_changes h
  | reset | load | start | tick | key | advance | resize | cpuStep => cases hb

theorem busAccess_changes (w : BusWord) (s t : State) (h : busAccess w s = .next t) : Changes s t := by
  rcases busAccess_cases w s with ⟨i, -, hb, e⟩ | e | e <;> rw [e] at h
  · exact busOp_changes hb h
  · cases h; exact (Change.byteGiven _).changes
  · cases h; exact (Change.plainWritten _ _).changes

theorem busAccesses_changes {ws : List BusWord} {s t : State} (h : busAccesses ws s = .next t) : Changes s t :=
  busAccesses_induction (fun _ => .refl) (fun _ _ _ => .trans) busAccess_changes ws s t h

theorem execLoad_changes {addr : Word16} {bytes : List Byte} {s t : State} (h : execLoad addr bytes s = .next t) :
    Changes s t := by
  unfold execLoad at h
  split at h
  · obtain ⟨u, hu, ht⟩ := andThen_next h
    obtain ⟨a, rfl⟩ := cacheAutostart_next ht
    have hload : Changes s u :=
      loadBytes_induction (fun _ => .refl) (fun _ _ _ => .trans) busAccess_changes bytes _ s u hu
    exact hload.tail (.autostartCached a)
  · cases h

theorem execTick_changes {s t : State} (h : execTick s = .next t) : Changes s t := by
  unfold execTick at h
  split at h
  · exact (Change.deadlineMoved _).changes.trans (tickBody_changes h)
  · cases h

theorem execKey_changes {b : Byte} {s t : State} (h : execKey b s = .next t) : Changes s t := by
  cases h
  split
  · rename_i hroom; exact (Change.keyBuffered b hroom).changes
  · exact .refl

theorem nextAccesses_changes (s : State) : Changes s (nextAccesses s).2 := by
  rcases nextAccesses_state s with e | ⟨rest, e⟩ <;> rw [e]
  · exact Change.valueDrawn.changes
  · exact (Change.accessesTaken rest).changes

theorem execCpuStep_changes {s t : State} (h : execCpuStep s = .next t) : Changes s t := by
  unfold execCpuStep at h
  split at h
  · exact (nextAccesses_changes s).trans (busAccesses_changes h)
  · cases h

/-- Every operation that answers is a row of elementary changes, or it is `START` or `RESET`. -/
theorem exec_cases {i : Instr} {s t : State} (h : exec i s = .next t) :
    Changes s t ∨ (∃ e, i = .start e ∧ execStart e s = .next t)
      ∨ ∃ w k, i = .reset w k ∧ execReset w k s = .next t := by
  cases i with
  | reset w k => exact .inr (.inr ⟨w, k, rfl, h⟩)
  | start e => exact .inr (.inl ⟨e, rfl, h⟩)
  | load => exact .inl (execLoad_changes h)
  | tick => exact .inl (execTick_changes h)
  | key => exact .inl (execKey_changes h)
  | advance dt => cases h; exact .inl (Change.timePassed dt).changes
  | resize w k => cases h; exact .inl (Change.consoleResized w k).changes
  | cpuStep => exact .inl (execCpuStep_changes h)
  | _ => exact .inl (busOp_changes rfl h)

/-- A step that answers is a row of elementary changes; or it takes `START` or `RESET` from what is pending and
performs it. -/
theorem step_cases {s t : State} (h : step s = .next t) :
    Changes s t ∨ ∃ p rest, s.inbox = p :: rest ∧
      ((∃ e, decodePacket s.map p = .op (.start e) ∧ execStart e { s with inbox := rest } = .next t)
        ∨ ∃ w k, decodePacket s.map p = .op (.reset w k) ∧ execReset w k { s with inbox := rest } = .next t) := by
  rcases step_next h with ⟨-, rfl⟩ | ⟨p, rest, hin, ⟨i, hd, hi⟩ | ⟨a, -, rfl⟩ | ⟨a, v, -, rfl⟩⟩
  · exact .inl .refl
  · rcases exec_cases hi with hc | ⟨e, rfl, he⟩ | ⟨w, k, rfl, hr⟩
    · exact .inl ((Change.packetTaken rest).changes.trans hc)
    · exact .inr ⟨p, rest, hin, .inl ⟨e, hd, he⟩⟩
    · exact .inr ⟨p, rest, hin, .inr ⟨w, k, hd, hr⟩⟩
  · exact .inl ((Change.packetTaken rest).changes.tail (.byteGiven _))
  · exact .inl ((Change.packetTaken rest).changes.tail (.plainWritten a v))

/-! ### `START` and `RESET` -/

/-- What `START` does: from Stopped it starts the machine, and halts it at once when a halt is pending (R212). -/
theorem execStart_next {e : Word16} {s t : State} (h : execStart e s = .next t) :
    s.sched = .stopped
      ∧ ((s.haltReq = true ∧ t = halt (started e s)) ∨ (s.haltReq = false ∧ t = started e s)) := by
  unfold execStart at h
  split at h
  · rename_i hs
    refine ⟨hs, ?_⟩
    split at h
    · rename_i hq; cases h; exact .inl ⟨hq, rfl⟩
    · rename_i hq; cases h; exact .inr ⟨by simpa using hq, rfl⟩
  · cases h

/-- What `RESET` has tested before it sets the reset state (R310). -/
theorem execReset_next {w k : Nat} {s t : State} (h : execReset w k s = .next t) :
    (dimOk w = true ∧ dimOk k = true) ∧ (mapOf s.par (resetRegs s.par w k s.freeCtr)).valid = true
      ∧ (mapOf s.par (resetRegs s.par w k s.freeCtr)).disjoint = true ∧ t = resetState w k s := by
  unfold execReset at h
  split at h
  · rename_i hdim
    split at h
    · rename_i hv
      split at h
      · rename_i hd; cases h; exact ⟨hdim, hv, hd, rfl⟩
      · cases h
    · cases h
  · cases h

end Sys2Proof.Machine
end

section
/-! O8 to O12: the invariant, the parameters, the output traces and the scheduler. Each is proved of an elementary
change, carried along a row of changes, and proved of `START` and `RESET`. -/

namespace Sys2Proof.Machine

/-! ### The invariant -/

/-- An elementary change keeps the invariant. -/
theorem Change.keeps_inv {s t : State} (h : Change s t) (hs : s.Inv) : t.Inv := by
  cases h with
  | byteGiven | valueDrawn | errorRaised | paletteStored | emitted | autostartCached | deadlineMoved | packetTaken
  | accessesTaken | consoleResized => exact { hs with }
  | keyDrained b rest hk =>
    refine { hs with keys_fit := fun d hd => ?_ }
    have := hs.keys_fit d hd
    rw [hk, List.length_cons] at this
    show rest.length ≤ d
    omega
  | remapped x' hv hd =>
    exact { hs with
      chr_size := length_resizeArray _ _ _, col_size := length_resizeArray _ _ _, map_valid := hv, map_disjoint := hd
      mem_wf := wf_leaveMap hs.mem_wf _ _ _ }
  | registersStored x' hm =>
    have hsize : ramSize x' = s.size := congrArg AddrMap.size hm
    exact { hs with
      chr_size := hs.chr_size.trans hsize.symm, col_size := hs.col_size.trans hsize.symm
      map_valid := (congrArg AddrMap.valid hm).trans hs.map_valid
      map_disjoint := (congrArg AddrMap.disjoint hm).trans hs.map_disjoint }
  | charStored => exact { hs with chr_size := List.length_set.trans hs.chr_size }
  | colourStored => exact { hs with col_size := List.length_set.trans hs.col_size }
  | ticked evs hw hh => exact { hs with extent := ⟨hw, hh⟩ }
  | halted =>
    rcases halt_cases s with ⟨-, e⟩ | ⟨hr, e⟩ <;> rw [e]
    · exact { hs with running_no_halt := nofun, halted_has_halt := fun _ => rfl }
    · exact { hs with running_no_halt := fun h => absurd h hr, halted_has_halt := fun _ => rfl }
  | plainWritten a v => exact { hs with mem_wf := wf_write hs.mem_wf a.isLt v }
  | keyBuffered b hroom =>
    refine { hs with keys_fit := fun d (hd : s.par.keybufDepth = some d) => ?_ }
    rw [keyRoom, hd] at hroom
    rw [List.length_append]
    exact of_decide_eq_true hroom
  | timePassed dt => exact { hs with started_past := hs.started_past.trans (Nat.le_add_right _ _) }

theorem Changes.keeps_inv {s t : State} (h : Changes s t) (hs : s.Inv) : t.Inv := by
  induction h with
  | refl => exact hs
  | tail _ hc ih => exact hc.keeps_inv ih

/-- The started machine keeps the invariant, but for a halt that is pending. -/
theorem started_inv {s : State} (hs : s.Inv) (hq : s.haltReq = false) (e : Word16) : (started e s).Inv :=
  { hs with started_past := Nat.le_refl _, running_no_halt := fun _ => hq, halted_has_halt := nofun }

/-- A machine that a pending halt ends right at its start keeps the invariant (R212). -/
theorem halt_started_inv {s : State} (hs : s.Inv) (e : Word16) : (halt (started e s)).Inv :=
  { hs with started_past := Nat.le_refl _, running_no_halt := nofun, halted_has_halt := fun _ => rfl }

theorem execStart_keeps_inv {e : Word16} {s t : State} (h : execStart e s = .next t) (hs : s.Inv) : t.Inv := by
  obtain ⟨-, ⟨-, rfl⟩ | ⟨hq, rfl⟩⟩ := execStart_next h
  · exact halt_started_inv hs e
  · exact started_inv hs hq e

theorem length_freshArray (n : Nat) (fill : Nat → Byte) : (freshArray n fill).length = n := by
  simp [freshArray]

theorem execReset_keeps_inv {w k : Nat} {s t : State} (h : execReset w k s = .next t) (hs : s.Inv) : t.Inv := by
  obtain ⟨hdim, hv, hd, rfl⟩ := execReset_next h
  exact { hs with
    chr_size := length_freshArray _ _, col_size := length_freshArray _ _, map_valid := hv, map_disjoint := hd
    extent := hdim, started_past := Nat.le_refl _, mem_wf := wf_leaveMap hs.mem_wf _ _ _
    running_no_halt := nofun, halted_has_halt := nofun }

/-- Settles O9: every elementary change keeps the invariant, and so do `START` and `RESET`. -/
theorem everyStepKeepsTheInvariant : Obligations.EveryStepKeepsTheInvariant := by
  intro s t hs h
  rcases step_cases h with hc | ⟨p, rest, -, ⟨e, -, he⟩ | ⟨w, k, -, hr⟩⟩
  · exact hc.keeps_inv hs
  · exact execStart_keeps_inv he { hs with }
  · exact execReset_keeps_inv hr { hs with }

/-- Settles O8. The created bytes are free, so only their number is computed. -/
theorem resetStateMeetsTheInvariant : Obligations.ResetStateMeetsTheInvariant := by
  have hsize : State.reset.size = 1024 := by decide
  constructor
  case chr_size => rw [hsize, State.reset, List.length_map, List.length_range]
  case col_size => rw [hsize, State.reset, List.length_map, List.length_range]
  case keys_fit => intro d h; cases h
  all_goals decide

/-! ### Parameters and register page -/

theorem Change.par_eq {s t : State} (h : Change s t) : t.par = s.par := by
  cases h with
  | halted => exact halt_par s
  | _ => rfl

theorem Changes.par_eq {s t : State} (h : Changes s t) : t.par = s.par := by
  induction h with
  | refl => rfl
  | tail _ hc ih => exact hc.par_eq.trans ih

theorem execStart_par {e : Word16} {s t : State} (h : execStart e s = .next t) : t.par = s.par := by
  obtain ⟨-, ⟨-, rfl⟩ | ⟨-, rfl⟩⟩ := execStart_next h
  · exact (halt_par _).trans (started_par e s)
  · rfl

theorem step_par {s t : State} (h : step s = .next t) : t.par = s.par := by
  rcases step_cases h with hc | ⟨p, rest, -, ⟨e, -, he⟩ | ⟨w, k, -, hr⟩⟩
  · exact hc.par_eq
  · exact (execStart_par he :)
  · obtain ⟨-, -, -, rfl⟩ := execReset_next hr; rfl

/-- Settles O10: the register page of the map is the parameter's, which stays. -/
theorem parametersAndRegisterPageNeverMove : Obligations.ParametersAndRegisterPageNeverMove := by
  intro s t h
  have hpar := step_par h
  refine ⟨hpar, fun off => ?_⟩
  rw [← hpar]
  exact decodeAddr_regPage t.map off

/-! ### Output traces -/

/-- Both output traces of `s` are beginnings of those of `t`. -/
def TracesGrow (s t : State) : Prop := s.conOut <+: t.conOut ∧ s.irqOut <+: t.irqOut

theorem TracesGrow.refl (s : State) : TracesGrow s s := ⟨List.prefix_rfl, List.prefix_rfl⟩

theorem TracesGrow.trans {s t u : State} (h₁ : TracesGrow s t) (h₂ : TracesGrow t u) : TracesGrow s u :=
  ⟨h₁.1.trans h₂.1, h₁.2.trans h₂.2⟩

theorem halt_traces (s : State) : TracesGrow s (halt s) := by
  rcases halt_cases s with ⟨-, e⟩ | ⟨-, e⟩ <;> rw [e]
  · exact ⟨List.prefix_append _ _, List.prefix_rfl⟩
  · exact .refl s

theorem started_traces (e : Word16) (s : State) : TracesGrow s (started e s) :=
  ⟨List.prefix_append _ _, List.prefix_rfl⟩

theorem Change.traces {s t : State} (h : Change s t) : TracesGrow s t := by
  cases h with
  | emitted cs => exact ⟨List.prefix_append _ _, List.prefix_rfl⟩
  | ticked evs => exact ⟨List.prefix_append _ _, List.prefix_append _ _⟩
  | halted => exact halt_traces s
  | _ => exact ⟨List.prefix_rfl, List.prefix_rfl⟩

theorem Changes.traces {s t : State} (h : Changes s t) : TracesGrow s t := by
  induction h with
  | refl => exact .refl s
  | tail _ hc ih => exact ih.trans hc.traces

theorem execStart_traces {e : Word16} {s t : State} (h : execStart e s = .next t) : TracesGrow s t := by
  obtain ⟨-, ⟨-, rfl⟩ | ⟨-, rfl⟩⟩ := execStart_next h
  · exact (started_traces e s).trans (halt_traces _)
  · exact started_traces e s

/-- Settles O11: every elementary change and `START` append to the traces or leave them; `RESET` is excluded. -/
theorem outputTracesOnlyGrow : Obligations.OutputTracesOnlyGrow := by
  intro s t h hno
  rcases step_cases h with hc | ⟨p, rest, hin, ⟨e, -, he⟩ | ⟨w, k, hd, -⟩⟩
  · exact hc.traces
  · exact (execStart_traces he :)
  · exact absurd hd (hno p rest w k hin)

/-! ### Scheduler -/

/-- What the operations other than `START` and `RESET` do to the scheduler, the halt flag and the configuration error
(R210, R224, R281). -/
structure SchedKept (s t : State) : Prop where
  halted : s.sched = .halted → t.sched = .halted
  running : s.sched = .running → t.sched = .running ∨ t.sched = .halted
  stopped : s.sched = .stopped → t.sched = .stopped
  haltReq : s.haltReq = true → t.haltReq = true
  cfgErr : s.cfgErr ≠ none → t.cfgErr ≠ none

theorem SchedKept.refl (s : State) : SchedKept s s := ⟨id, .inl, id, id, id⟩

theorem SchedKept.trans {s t u : State} (h₁ : SchedKept s t) (h₂ : SchedKept t u) : SchedKept s u where
  halted := h₂.halted ∘ h₁.halted
  running h := (h₁.running h).elim h₂.running fun h => .inr (h₂.halted h)
  stopped := h₂.stopped ∘ h₁.stopped
  haltReq := h₂.haltReq ∘ h₁.haltReq
  cfgErr := h₂.cfgErr ∘ h₁.cfgErr

theorem halt_schedKept (s : State) : SchedKept s (halt s) := by
  rcases halt_cases s with ⟨hr, e⟩ | ⟨-, e⟩ <;> rw [e]
  · exact ⟨fun _ => rfl, fun _ => .inr rfl, fun h => by simp [hr] at h, fun _ => rfl, id⟩
  · exact ⟨id, .inl, id, fun _ => rfl, id⟩

theorem Change.schedKept {s t : State} (h : Change s t) : SchedKept s t := by
  cases h with
  | errorRaised => exact ⟨id, .inl, id, id, fun _ => nofun⟩
  | halted => exact halt_schedKept s
  | _ => exact ⟨id, .inl, id, id, id⟩

theorem Changes.schedKept {s t : State} (h : Changes s t) : SchedKept s t := by
  induction h with
  | refl => exact .refl s
  | tail _ hc ih => exact ih.trans hc.schedKept

/-- `START` clears neither the halt flag nor the configuration error. -/
theorem execStart_sticky {e : Word16} {s t : State} (h : execStart e s = .next t) :
    (s.haltReq = true → t.haltReq = true) ∧ (s.cfgErr ≠ none → t.cfgErr ≠ none) := by
  obtain ⟨-, ⟨-, rfl⟩ | ⟨-, rfl⟩⟩ := execStart_next h
  · exact ⟨fun _ => halt_haltReq _, by simp⟩
  · exact ⟨id, id⟩

/-- Settles O12: every elementary change keeps the scheduler's order, `START` is enabled in Stopped only, and `RESET`
is excluded. -/
theorem schedulerTransitions : Obligations.SchedulerTransitions := by
  intro s t h hno
  rcases step_cases h with hc | ⟨p, rest, hin, ⟨e, hd, he⟩ | ⟨w, k, hd, -⟩⟩
  · obtain ⟨hhalted, hrunning, hstopped, hreq, herr⟩ := hc.schedKept
    exact ⟨hhalted, hrunning, fun h => .inl (hstopped h), hreq, herr⟩
  · have hs : s.sched = .stopped := (execStart_next he).1
    obtain ⟨hreq, herr⟩ := execStart_sticky he
    exact ⟨by simp [hs], by simp [hs], fun _ => .inr ⟨p, rest, e, hin, hd⟩, hreq, herr⟩
  · exact absurd hd (hno p rest w k hin)

end Sys2Proof.Machine
end

section
/-! O20, O34, O35, O37 and O54: the palette bytes, the two drawing writes, and what `RESET` sets. -/

namespace Sys2Proof.Machine

/-! ### Palette -/

theorem execRdPal_of_lt {j : Nat} (s : State) (hj : j < 96) : execRdPal j s = .next (giveByte s.pal[j] s) := by
  simp [execRdPal, hj]

theorem execWrPal_of_lt {i : Nat} (v : Byte) (s : State) (hi : i < 96) :
    execWrPal i v s = .next { s with pal := s.pal.set i v hi } := by
  simp [execWrPal, hi]

/-- Settles O20: the palette is a vector, and a store changes one of its bytes. -/
theorem paletteWriteThenRead : Obligations.PaletteWriteThenRead := by
  intro s i j v hi hj
  refine ⟨execRdPal_of_lt s hj, _, execWrPal_of_lt v s hi, rfl, ?_⟩
  rw [← Vector.getElem_set hi hj]
  exact execRdPal_of_lt _ hj

/-! ### Drawing in numbers -/

/-- The indices of a cell as numbers: the low nibble is the foreground's when `FG_NIBBLE` is low and bit 7 of the
character clear, and when `FG_NIBBLE` is high and bit 7 set (R179, R186). -/
theorem cellIndices_toNat (fg : FgNibble) (c k : Byte) :
    ((cellIndices fg c k).1.toNat, (cellIndices fg c k).2.toNat)
      = if (fg = .low ↔ c.getLsbD 7 = false) then (k.toNat % 16, k.toNat / 16) else (k.toNat / 16, k.toNat % 16) := by
  have hlow : (k.extractLsb' 0 4).toNat = k.toNat % 16 := by simp [BitVec.extractLsb'_toNat]
  have hhigh : (k.extractLsb' 4 4).toNat = k.toNat / 16 := by
    have := k.isLt
    simp [BitVec.extractLsb'_toNat, Nat.shiftRight_eq_div_pow]
    omega
  unfold cellIndices
  cases fg <;> cases c.getLsbD 7 <;> simp [nibbles, hlow, hhigh]

/-- The foreground's colour from the palette's first set (R24, R187). -/
theorem palColor_zero (pal : Vector Byte 96) (idx : BitVec 4) :
    palColor pal 0 idx
      = { chan0 := pal[idx.toFin.val * 3], chan1 := pal[idx.toFin.val * 3 + 1]
          chan2 := pal[idx.toFin.val * 3 + 2] } := by
  simp [palColor, palIndex, Vector.get_eq_getElem]

/-- The background's colour from the palette's second set (R24, R187). -/
theorem palColor_one (pal : Vector Byte 96) (idx : BitVec 4) :
    palColor pal 1 idx
      = { chan0 := pal[48 + idx.toFin.val * 3], chan1 := pal[48 + idx.toFin.val * 3 + 1]
          chan2 := pal[48 + idx.toFin.val * 3 + 2] } := by
  simp [palColor, palIndex, Vector.get_eq_getElem]

/-- The three commands of a cell in numbers: the position, the palette bytes of both indices, the glyph (R175, R178). -/
theorem cellCmds_numbers (s : State) (o : Nat) (c k : Byte) :
    ∃ f b : Fin 16,
      (f.val, b.val)
          = (if (s.par.fgNibble = .low ↔ c.getLsbD 7 = false) then (k.toNat % 16, k.toNat / 16)
             else (k.toNat / 16, k.toNat % 16))
        ∧ cellCmds s o c k =
          [.setCursor ((o % s.x.winW.toNat + s.x.winX.toNat) % s.crw) ((o / s.x.winW.toNat + s.x.winY.toNat) % s.crh),
           .setColor { chan0 := s.pal[f.val * 3], chan1 := s.pal[f.val * 3 + 1], chan2 := s.pal[f.val * 3 + 2] }
             { chan0 := s.pal[48 + b.val * 3], chan1 := s.pal[48 + b.val * 3 + 1], chan2 := s.pal[48 + b.val * 3 + 2] },
           .put (Config.charsetRom c)] :=
  ⟨(cellIndices s.par.fgNibble c k).1.toFin, (cellIndices s.par.fgNibble c k).2.toFin, cellIndices_toNat _ _ _, by
    rw [cellCmds, palColor_zero, palColor_one, coord, translate]⟩

/-! ### The two drawing writes -/

/-- A text write inside both arrays stores the character and appends its cell's commands (R170, R181). -/
theorem execWrText_draws {s : State} {o : Nat} {k : Byte} (v : Byte) (hset : windowSet s = true)
    (ho : o < s.chr.length) (hk : s.col[o]? = some k) :
    execWrText o v s = .next { s with chr := s.chr.set o v, conOut := s.conOut ++ cellCmds s o v k } := by
  have hram : inRam s o = true := (inRam_iff s o).mpr ⟨ho, (List.getElem?_eq_some_iff.mp hk).1⟩
  have hc : (s.chr.set o v)[o]? = some v := List.getElem?_set_self ho
  rw [execWrText, if_pos hset, if_pos hram, drawCell_inRam (s := { s with chr := s.chr.set o v }) v k hc hk]
  rfl

/-- A colour write inside both arrays stores the colour and appends its cell's commands (R171, R181). -/
theorem execWrColor_draws {s : State} {o : Nat} {c : Byte} (v : Byte) (hset : windowSet s = true)
    (ho : o < s.col.length) (hc : s.chr[o]? = some c) :
    execWrColor o v s = .next { s with col := s.col.set o v, conOut := s.conOut ++ cellCmds s o c v } := by
  have hram : inRam s o = true := (inRam_iff s o).mpr ⟨(List.getElem?_eq_some_iff.mp hc).1, ho⟩
  have hk : (s.col.set o v)[o]? = some v := List.getElem?_set_self ho
  rw [execWrColor, if_pos hset, if_pos hram, drawCell_inRam (s := { s with col := s.col.set o v }) c v hc hk]
  rfl

/-- Settles O34: the write appends its cell's commands, which are those of the statement in numbers. -/
theorem textWriteStoresAndDraws : Obligations.TextWriteStoresAndDraws := by
  intro s o v k hw hh ho hk
  obtain ⟨f, b, hfb, hcmds⟩ := cellCmds_numbers s o v k
  refine ⟨f, b, ?_, ?_⟩
  · rw [hfb]
    cases s.par.fgNibble <;> cases v.getLsbD 7 <;> rfl
  · rw [← hcmds]
    exact execWrText_draws v ((windowSet_iff s).mpr ⟨hw, hh⟩) ho hk

/-- Settles O35: as O34, with the stored character. -/
theorem colorWriteStoresAndRedraws : Obligations.ColorWriteStoresAndRedraws := by
  intro s o v c hw hh ho hc
  obtain ⟨f, b, hfb, hcmds⟩ := cellCmds_numbers s o c v
  refine ⟨f, b, ?_, ?_⟩
  · rw [hfb]
    cases s.par.fgNibble <;> cases c.getLsbD 7 <;> rfl
  · rw [← hcmds]
    exact execWrColor_draws v ((windowSet_iff s).mpr ⟨hw, hh⟩) ho hc

/-! ### A window dimension of 0 -/

theorem ramSize_of_zero {x : Regs} (h : x.winW = 0 ∨ x.winH = 0) : ramSize x = 0 := by
  have hcells : x.winW.toNat * x.winH.toNat = 0 := by
    rcases h with h | h <;> simp [h]
  rw [ramSize, hcells]
  rfl

/-- With no VideoRAM no address lies in a RAM range (R27). -/
theorem decodeAddr_of_size_zero {m : AddrMap} (h : m.size = 0) (a : Word16) (o : Nat) :
    decodeAddr m a ≠ .text o ∧ decodeAddr m a ≠ .color o := by
  rcases decodeAddr_cases m a with ⟨-, e⟩ | ⟨-, hlo, hhi, -⟩ | ⟨-, -, hlo, hhi, -⟩ | ⟨-, -, -, e⟩
  · rw [e]; exact ⟨nofun, nofun⟩
  · omega
  · omega
  · rw [e]; exact ⟨nofun, nofun⟩

/-- Settles O37: the window is not set, and VideoRAM has no byte. -/
theorem zeroDimensionDropsVideoWrites : Obligations.ZeroDimensionDropsVideoWrites := by
  intro s v hzero
  have hunset : ¬windowSet s = true := fun hset =>
    hzero.elim ((windowSet_iff s).mp hset).1 ((windowSet_iff s).mp hset).2
  exact ⟨fun o => ⟨if_neg hunset, if_neg hunset⟩, decodeAddr_of_size_zero (ramSize_of_zero hzero)⟩

/-! ### The reset values -/

/-- On a console of at least 40 by 25 the window is centred (R310). -/
theorem resetRegs_centred (p : Params) {w h : Nat} (hw : 40 ≤ w) (hh : 25 ≤ h) (n : Nat) :
    resetRegs p w h n
      = { winX := BitVec.ofNat 8 ((w - 40) / 2), winY := BitVec.ofNat 8 ((h - 25) / 2), winW := 40, winH := 25
          textPtr := p.textPtrReset, colorPtr := p.colorPtrReset, charset := 0, freq := 0
          irqE := 0, irqR := 0, cFillOut := 0 } := by
  rw [resetRegs, resetWinX, resetWinY, if_pos hw, if_pos hh]

theorem execReset_of_ok {w h : Nat} {s : State} (hw : dimOk w = true) (hh : dimOk h = true)
    (hv : (mapOf s.par (resetRegs s.par w h s.freeCtr)).valid = true)
    (hd : (mapOf s.par (resetRegs s.par w h s.freeCtr)).disjoint = true) :
    execReset w h s = .next (resetState w h s) := by
  rw [execReset, if_pos ⟨hw, hh⟩, if_pos hv, if_pos hd]

/-- Settles O54: the tests of `RESET` pass, and each field of the reset state is read off. -/
theorem resetGivesTheResetValues : Obligations.ResetGivesTheResetValues := by
  intro s w h hw hw' hh hh' hmap
  obtain ⟨hv, hd⟩ := hmap (resetRegs s.par w h s.freeCtr) rfl rfl rfl rfl
  have hdimw : dimOk w = true := (dimOk_iff w).mpr ⟨by omega, hw'⟩
  have hdimh : dimOk h = true := (dimOk_iff h).mpr ⟨by omega, hh'⟩
  refine ⟨resetState w h s, execReset_of_ok hdimw hdimh hv hd, ?_, ?_, ?_, ?_⟩
  · rw [← resetRegs_centred s.par hw hh s.freeCtr]
    rfl
  · rw [resetState_chr, length_freshArray, ramSize_resetRegs]
  · rw [resetState_col, length_freshArray, ramSize_resetRegs]
  · intro a htext hcolor
    have hsize : s.map.size = s.size := rfl
    exact read_leaveMap_outside s.mem (by omega) (by omega)

end Sys2Proof.Machine
end

section
/-! O4, O6, O7 and O48: transactions inside and outside the three ranges, as one operation and as the accesses of a
CPU step. -/

namespace Sys2Proof.Machine

/-! ### Which transactions are operations -/

/-- An address decodes to no range exactly when it lies in none of the three, by numbers (R70, R150). -/
theorem decodeAddr_eq_none_iff (m : AddrMap) (a : Word16) :
    decodeAddr m a = .none ↔
      ¬(a.toNat / 256 = m.regPage.toNat ∨ (m.textBase ≤ a.toNat ∧ a.toNat < m.textBase + m.size)
        ∨ (m.colorBase ≤ a.toNat ∧ a.toNat < m.colorBase + m.size)) := by
  have hpage : a.extractLsb' 8 8 = m.regPage ↔ a.toNat / 256 = m.regPage.toNat := by
    rw [← page_toNat, BitVec.toNat_inj]
  rcases decodeAddr_cases m a with ⟨hp, e⟩ | ⟨-, hlo, hhi, e⟩ | ⟨-, -, hlo, hhi, e⟩ | ⟨hp, ht, hc, e⟩ <;> rw [e]
  · exact iff_of_false nofun (not_not.mpr (.inl (hpage.mp hp)))
  · exact iff_of_false nofun (not_not.mpr (.inr (.inl ⟨hlo, hhi⟩)))
  · exact iff_of_false nofun (not_not.mpr (.inr (.inr ⟨hlo, hhi⟩)))
  · exact iff_of_true rfl (not_or.mpr ⟨hp ∘ hpage.mpr, not_or.mpr ⟨ht, hc⟩⟩)

/-- A transaction outside the ranges decodes to an access to plain memory, by `rw` (R70). -/
theorem decodeBus_of_none {m : AddrMap} {w : BusWord} (h : decodeAddr m w.addr = .none) :
    decodeBus m w = if w.isWrite = true then .plainWrite w.addr w.data else .plainRead w.addr := by
  unfold decodeBus
  rw [h]
  cases w.isWrite <;> rfl

/-- A transaction inside a range decodes to an operation (R82). -/
theorem decodeBus_of_ne_none {m : AddrMap} {w : BusWord} (h : decodeAddr m w.addr ≠ .none) :
    ∃ i, decodeBus m w = .op i := by
  unfold decodeBus
  cases hr : decodeAddr m w.addr with
  | none => exact absurd hr h
  | reg | text | color => cases w.isWrite <;> exact ⟨_, rfl⟩

theorem decodeBus_isOp_iff (m : AddrMap) (w : BusWord) :
    (∃ i, decodeBus m w = .op i) ↔ decodeAddr m w.addr ≠ .none := by
  refine ⟨fun ⟨i, hi⟩ hnone => ?_, decodeBus_of_ne_none⟩
  rw [decodeBus_of_none hnone] at hi
  split at hi <;> cases hi

/-- Settles O4: a transaction is an operation when its address decodes to a range. -/
theorem transactionIsAnOperationExactlyInTheRanges : Obligations.TransactionIsAnOperationExactlyInTheRanges := by
  intro m w
  rw [decodeBus_isOp_iff]
  exact ⟨by rw [Ne, decodeAddr_eq_none_iff, not_not]; rfl, fun h => decodeBus_of_none (not_not.mp h)⟩

/-! ### The step -/

/-- A step with something pending performs the first of it (R62, R155). -/
theorem step_of_pending {s : State} {p : Packet} {rest : List Packet} (h : s.inbox = p :: rest) :
    step s = runDecoded exec (decodePacket s.map p) { s with inbox := rest } := by
  rw [step, nextPacket, h]
  rfl

/-- Settles O6. -/
theorem stepRunsTheDecodedOperation : Obligations.StepRunsTheDecodedOperation := by
  intro s p rest i hin hi
  rw [step_of_pending hin, hi]
  rfl

/-- Settles O7: the transaction decodes to the access to plain memory, and a write changes one address. -/
theorem unmappedTransactionReachesPlainMemory : Obligations.UnmappedTransactionReachesPlainMemory := by
  intro s w rest hin hnone
  have hdecode : decodePacket s.map (.bus w) = _ := decodeBus_of_none hnone
  rw [step_of_pending hin, hdecode]
  refine ⟨fun hr => ?_, fun hw => ⟨s.mem.write w.addr.toNat w.data, ?_, ?_, ?_⟩⟩
  · rw [hr]; rfl
  · rw [hw]; rfl
  · exact read_write_same _ _ _
  · exact fun b hb => read_write_other _ hb _

/-! ### The CPU step -/

/-- A CPU step of a running machine makes the first queued accesses (R225). -/
theorem cpuStep_of_queued {s : State} {ws : List BusWord} {rest : List (List BusWord)} (hrun : s.sched = .running)
    (hq : s.cpuq = ws :: rest) : exec .cpuStep s = busAccesses ws { s with cpuq := rest } := by
  show execCpuStep s = _
  rw [execCpuStep, if_pos hrun, nextAccesses, hq]

theorem busAccesses_cons_of_next {w : BusWord} {ws : List BusWord} {s t : State} (h : busAccess w s = .next t) :
    busAccesses (w :: ws) s = busAccesses ws t := by
  rw [busAccesses, h, andThen_of_next]

/-- After a first access that leaves the machine running, a CPU step goes on as one with the other accesses (R225). -/
theorem cpuStep_of_first {s t : State} {w : BusWord} {ws : List BusWord} {rest : List (List BusWord)}
    (hrun : s.sched = .running) (hq : s.cpuq = (w :: ws) :: rest)
    (hfirst : busAccess w { s with cpuq := rest } = .next t) (hrun' : t.sched = .running) :
    exec .cpuStep s = exec .cpuStep { t with cpuq := ws :: t.cpuq } := by
  rw [cpuStep_of_queued hrun hq, busAccesses_cons_of_next hfirst]
  exact (cpuStep_of_queued (s := { t with cpuq := ws :: t.cpuq }) hrun' rfl).symm

/-- A read outside the ranges returns plain memory's byte (R70). -/
theorem busAccess_of_plainRead {w : BusWord} {s : State} (h : decodeAddr s.map w.addr = .none)
    (hr : w.isWrite = false) : busAccess w s = .next (plainRead w.addr s) := by
  rw [busAccess_of_none h, hr]; rfl

/-- A write outside the ranges stores its byte in plain memory (R70). -/
theorem busAccess_of_plainWrite {w : BusWord} {s : State} (h : decodeAddr s.map w.addr = .none)
    (hw : w.isWrite = true) : busAccess w s = .next (plainWrite w.addr w.data s) := by
  rw [busAccess_of_none h, if_pos hw]

/-- Accesses outside the ranges complete: they return a byte for each read and change plain memory at the written
addresses only. An access outside the ranges leaves the map, so the later ones stay outside. -/
theorem busAccesses_of_none {ws : List BusWord} {s : State} (h : ∀ w ∈ ws, decodeAddr s.map w.addr = .none) :
    ∃ m out, busAccesses ws s = .next { s with mem := m, rdOut := s.rdOut ++ out }
      ∧ out.length = (ws.filter fun w => !w.isWrite).length
      ∧ ∀ a, (∀ w ∈ ws, w.isWrite = true → w.addr.toNat ≠ a) → m.read a = s.mem.read a := by
  induction ws generalizing s with
  | nil => exact ⟨s.mem, [], by rw [List.append_nil]; rfl, rfl, fun _ _ => rfl⟩
  | cons w ws ih =>
    obtain ⟨hfirst, hothers⟩ := List.forall_mem_cons.mp h
    cases hw : w.isWrite with
    | false =>
      obtain ⟨m, out, hrun, hlen, hmem⟩ := ih (s := plainRead w.addr s) hothers
      refine ⟨m, s.mem.read w.addr.toNat :: out, ?_, by simp [hw, hlen], fun a ha => ?_⟩
      · rw [busAccesses_cons_of_next (busAccess_of_plainRead hfirst hw), hrun, List.append_cons]
        rfl
      · exact hmem a (List.forall_mem_cons.mp ha).2
    | true =>
      obtain ⟨m, out, hrun, hlen, hmem⟩ := ih (s := plainWrite w.addr w.data s) hothers
      refine ⟨m, out, ?_, by simp [hw, hlen], fun a ha => ?_⟩
      · rw [busAccesses_cons_of_next (busAccess_of_plainWrite hfirst hw), hrun]
        rfl
      · obtain ⟨hne, hlater⟩ := List.forall_mem_cons.mp ha
        exact (hmem a hlater).trans (read_write_other _ (hne hw).symm _)

/-- Settles O48: the step makes its accesses in turn, and one outside the ranges is an access to plain memory. -/
theorem cpuStepOutsideTheRangesTouchesPlainMemoryOnly :
    Obligations.CpuStepOutsideTheRangesTouchesPlainMemoryOnly := by
  intro s rest hrun
  refine ⟨fun hq => cpuStep_of_queued hrun hq, fun w ws hq hnone => ⟨fun hr => ?_, fun hw => ?_⟩, fun ws hq hall => ?_⟩
  · exact cpuStep_of_first hrun hq (busAccess_of_plainRead hnone hr) hrun
  · refine ⟨s.mem.write w.addr.toNat w.data, ?_, read_write_same _ _ _, fun b hb => read_write_other _ hb _⟩
    exact cpuStep_of_first hrun hq (busAccess_of_plainWrite hnone hw) hrun
  · rw [cpuStep_of_queued hrun hq]
    exact busAccesses_of_none (s := { s with cpuq := rest }) hall

end Sys2Proof.Machine
end

section
/-! O50: a `LOAD` as the bus write of its first byte and the `LOAD` of the others. -/

namespace Sys2Proof.Machine

/-! ### Sequencing -/

theorem andThen_assoc {α β γ : Type} (r : Host.Outcome α Fault Refusal) (f : α → Host.Outcome β Fault Refusal)
    (g : β → Host.Outcome γ Fault Refusal) : andThen (andThen r f) g = andThen r fun a => andThen (f a) g := by
  cases r <;> rfl

/-- Two sequences agree when their second parts agree on what the first part answers. -/
theorem andThen_congr {α β : Type} {r : Host.Outcome α Fault Refusal} {f g : α → Host.Outcome β Fault Refusal}
    (h : ∀ a, r = .next a → f a = g a) : andThen r f = andThen r g := by
  cases r with
  | next a => exact h a rfl
  | fault | refused => rfl

@[simp] theorem andThen_next_right {α : Type} (r : Host.Outcome α Fault Refusal) : andThen r .next = r := by
  cases r <;> rfl

/-- A first part that answers no next state ends the sequence with its own answer. -/
theorem andThen_of_no_next {α : Type} {r : Host.Outcome α Fault Refusal} {f : α → Host.Outcome α Fault Refusal}
    (h : ∀ a, r ≠ .next a) : andThen r f = r := by
  cases r with
  | next a => exact absurd rfl (h a)
  | fault | refused => rfl

/-! ### The auto-start cache stays under bus accesses -/

/-- No bus operation touches the auto-start cache; `LOAD` and `RESET` alone do (R38). -/
theorem busOp_autostart {i : Instr} (hb : isBusOp i = true) {s t : State} (h : exec i s = .next t) :
    t.autostart = s.autostart := by
  cases i with
  | rdWinX | rdWinY | rdWinW | rdWinH | rdTextPtr | rdColorPtr | rdCharset | rdFreq | rdIrqE | rdIrqR
  | rdTimerLo | rdTimerHi | rdUnknown | rdControl | rdCFillOut => cases h; rfl
  | rdKeys | rdRealW | rdRealH | rdPal | rdText | rdColor =>
    simp only [exec, execRdKeys, execRdRealW, execRdRealH, execRdPal, execRdText, execRdColor] at h
    split at h <;> cases h <;> rfl
  | wrWinX | wrWinY | wrWinW | wrWinH | wrTextPtr | wrColorPtr =>
    rcases geomWrite_next h with ⟨-, -, rfl⟩ | ⟨-, rfl⟩ <;> rfl
  | wrCharset | wrFreq | wrIrqE | wrIrqR | wrCFillOut => cases h; rfl
  | wrKeys | wrTimerLo | wrTimerHi | wrRealW | wrRealH | wrUnknown => cases h; rfl
  | wrPal =>
    simp only [exec, execWrPal] at h
    split at h <;> cases h
    rfl
  | wrControl v =>
    obtain ⟨u, hu, rfl⟩ := execWrControl_next h
    have htick : u.autostart = s.autostart := by
      split at hu
      · obtain ⟨-, -, evs, rfl, -⟩ := tickBody_next hu; rfl
      · cases hu; rfl
    split
    · exact (halt_autostart u).trans htick
    · exact htick
  | wrText | wrColor =>
    simp only [exec, execWrText, execWrColor] at h
    split at h
    · split at h <;> cases h
      exact drawCell_autostart _ _
    · cases h; rfl
  | reset | load | start | tick | key | advance | resize | cpuStep => cases hb

theorem busAccess_autostart {w : BusWord} {s t : State} (h : busAccess w s = .next t) :
    t.autostart = s.autostart := by
  rcases busAccess_cases w s with ⟨i, -, hb, e⟩ | e | e <;> rw [e] at h
  · exact busOp_autostart hb h
  · cases h; rfl
  · cases h; rfl

/-- What `LOAD` reads of the state after its bytes, the parameters and the cache, is as before them. -/
theorem loadBytes_keeps {a : Nat} {bs : List Byte} {s t : State} (h : loadBytes a bs s = .next t) :
    t.par = s.par ∧ t.autostart = s.autostart :=
  loadBytes_induction (P := fun s t => t.par = s.par ∧ t.autostart = s.autostart) (fun _ => ⟨rfl, rfl⟩)
    (fun _ _ _ h₁ h₂ => ⟨h₂.1.trans h₁.1, h₂.2.trans h₁.2⟩)
    (fun _ _ _ h => ⟨(busAccess_changes _ _ _ h).par_eq, busAccess_autostart h⟩) bs a s t h

/-! ### The parts of `LOAD` -/

theorem cacheAutostart_elsewhere {addr : Word16} {s : State} (h : addr ≠ s.par.basicLoadAddr) (bytes : List Byte) :
    cacheAutostart addr bytes s = .next s :=
  if_neg h

/-- At the canonical address a number of 16 bits, or none, overwrites the cache (R250, R252). -/
theorem cacheAutostart_canonical {addr : Word16} {bytes : List Byte} {s : State} (h : addr = s.par.basicLoadAddr)
    (hn : ∀ n, scanAutostart s.par.autostartToken bytes = some n → n ≤ 65535) :
    cacheAutostart addr bytes s
      = .next { s with autostart := (scanAutostart s.par.autostartToken bytes).map (BitVec.ofNat 16) } := by
  unfold cacheAutostart
  rw [if_pos h]
  cases hscan : scanAutostart s.par.autostartToken bytes with
  | none => rfl
  | some n => exact if_pos (hn n hscan)

theorem execLoad_of_fits {addr : Word16} {bytes : List Byte} (h : addr.toNat + bytes.length ≤ 65536) (s : State) :
    exec (.load addr bytes) s = andThen (loadBytes addr.toNat bytes s) (cacheAutostart addr bytes) :=
  if_pos h

/-- After the first byte of an image that fits, the address does not wrap, or no byte is left. -/
theorem succ_fits {addr : Word16} {b : Byte} {bs : List Byte} (h : addr.toNat + (b :: bs).length ≤ 65536) :
    (addr + 1).toNat + bs.length ≤ 65536 ∧ ((addr + 1).toNat = addr.toNat + 1 ∨ bs = []) := by
  rw [List.length_cons] at h
  have hsucc : (addr + 1).toNat = (addr.toNat + 1) % 65536 := BitVec.toNat_add addr 1
  refine ⟨by omega, ?_⟩
  by_cases hlast : bs = []
  · exact .inr hlast
  · have := List.length_pos_iff.mpr hlast
    exact .inl (by omega)

/-- A `LOAD` writes its first byte on the bus, then the others from the next address on, then the cache (R250). -/
theorem execLoad_cons {addr : Word16} {b : Byte} {bs : List Byte} (h : addr.toNat + (b :: bs).length ≤ 65536)
    (s : State) :
    exec (.load addr (b :: bs)) s
      = andThen (busAccess (busWord true addr b) s) fun t =>
          andThen (loadBytes (addr + 1).toNat bs t) (cacheAutostart addr (b :: bs)) := by
  have hnext : loadBytes (addr.toNat + 1) bs = loadBytes (addr + 1).toNat bs := by
    rcases (succ_fits h).2 with e | rfl
    · rw [e]
    · rfl
  rw [execLoad_of_fits h, loadBytes, andThen_assoc, hnext, BitVec.ofNat_toNat, BitVec.setWidth_eq]

/-- `ByteStored` says what the bus write of the byte answers. -/
theorem busAccess_of_byteStored {s t : State} {addr : Word16} {b : Byte} (h : ByteStored s addr b t) :
    busAccess (busWord true addr b) s = .next t := by
  rcases h with ⟨i, hi, hexec⟩ | ⟨hnone, rfl⟩
  · rw [busAccess_of_op hi, hexec]
  · rw [busAccess_of_plainWrite (by rw [addr_busWord]; exact hnone) (isWrite_busWord _ _ _), addr_busWord, data_busWord]
    rfl

/-! ### One byte and the others -/

/-- A `LOAD` of one byte at a mapped address other than the canonical one is the bus write of it (R68). -/
theorem execLoad_single {s : State} {addr : Word16} {b : Byte} {i : Instr}
    (hi : decodeBus s.map (busWord true addr b) = .op i) (hne : addr ≠ s.par.basicLoadAddr) :
    exec (.load addr [b]) s = exec i s := by
  have hfit : addr.toNat + [b].length ≤ 65536 := addr.isLt
  rw [execLoad_cons hfit, busAccess_of_op hi]
  refine (andThen_congr fun t ht => ?_).trans (andThen_next_right (exec i s))
  have hpar : t.par = s.par := (busAccess_changes _ s t ((busAccess_of_op hi).trans ht)).par_eq
  exact cacheAutostart_elsewhere (hpar ▸ hne) [b]

/-- Away from the canonical address, a `LOAD` is the `LOAD` of the bytes after the first, in the state that the first
one leaves. -/
theorem execLoad_tail {s t : State} {addr : Word16} {b : Byte} {bs : List Byte}
    (hfit : addr.toNat + (b :: bs).length ≤ 65536) (hstored : busAccess (busWord true addr b) s = .next t)
    (hne : addr ≠ s.par.basicLoadAddr) (hne' : addr + 1 ≠ s.par.basicLoadAddr) :
    exec (.load addr (b :: bs)) s = exec (.load (addr + 1) bs) t := by
  rw [execLoad_cons hfit, hstored, andThen_of_next, execLoad_of_fits (succ_fits hfit).1]
  refine andThen_congr fun u hu => ?_
  have hpar : u.par = s.par := (loadBytes_keeps hu).1.trans (busAccess_changes _ s t hstored).par_eq
  rw [← hpar] at hne hne'
  rw [cacheAutostart_elsewhere hne, cacheAutostart_elsewhere hne']

/-- Where the `LOAD` of the bytes after the first completes, the whole one does and differs in the auto-start cache
alone, which follows from the whole image (R251, R252). -/
theorem execLoad_of_tail {s t u : State} {addr : Word16} {b : Byte} {bs : List Byte}
    (hfit : addr.toNat + (b :: bs).length ≤ 65536) (hstored : busAccess (busWord true addr b) s = .next t)
    (htail : exec (.load (addr + 1) bs) t = .next u)
    (hn : addr = s.par.basicLoadAddr → ∀ n, scanAutostart s.par.autostartToken (b :: bs) = some n → n ≤ 65535) :
    exec (.load addr (b :: bs)) s
      = .next { u with
          autostart :=
            if addr = s.par.basicLoadAddr then (scanAutostart s.par.autostartToken (b :: bs)).map (BitVec.ofNat 16)
            else s.autostart } := by
  rw [execLoad_of_fits (succ_fits hfit).1] at htail
  obtain ⟨r, hr, hcache⟩ := andThen_next htail
  obtain ⟨a, rfl⟩ := cacheAutostart_next hcache
  obtain ⟨hpar, hauto⟩ := loadBytes_keeps hr
  rw [(busAccess_changes _ s t hstored).par_eq] at hpar
  rw [busAccess_autostart hstored] at hauto
  rw [execLoad_cons hfit, hstored, andThen_of_next, hr, andThen_of_next, ← hpar]
  rw [← hpar] at hn
  by_cases haddr : addr = r.par.basicLoadAddr
  · rw [cacheAutostart_canonical haddr (hn haddr), if_pos haddr]
  · rw [cacheAutostart_elsewhere haddr, if_neg haddr, ← hauto]

/-- Settles O50: a `LOAD` is the bus write of its first byte and the `LOAD` of the others. -/
theorem loadedByteAtAMappedAddressIsABusWrite : Obligations.LoadedByteAtAMappedAddressIsABusWrite := by
  intro s addr b bs hfit
  refine ⟨fun i hi => ⟨execLoad_single hi, fun hno => ?_⟩, fun _ => ?_, fun t hstored => ⟨?_, fun u => ?_⟩⟩
  · rw [execLoad_cons hfit, busAccess_of_op hi, andThen_of_no_next hno]
  · exact ⟨read_write_same _ _ _, fun a ha => read_write_other _ ha _⟩
  · exact execLoad_tail hfit (busAccess_of_byteStored hstored)
  · exact execLoad_of_tail hfit (busAccess_of_byteStored hstored)

end Sys2Proof.Machine
end

section
/-! O33 and O36: the paint outside the window on the screen, and VideoRAM reads after writes. -/

namespace Sys2Proof.Machine

/-! ### VideoRAM reads -/

theorem execRdText_of_get {s : State} {p : Nat} {c : Byte} (h : s.chr[p]? = some c) :
    exec (.rdText p) s = .next { s with rdOut := s.rdOut ++ [c] } := by
  show execRdText p s = _
  rw [execRdText, h]
  rfl

theorem execRdColor_of_get {s : State} {p : Nat} {k : Byte} (h : s.col[p]? = some k) :
    exec (.rdColor p) s = .next { s with rdOut := s.rdOut ++ [k] } := by
  show execRdColor p s = _
  rw [execRdColor, h]
  rfl

/-- A byte of an array after a store at one of its offsets. -/
theorem getElem?_set_of_some {l : List Byte} {o p : Nat} {c : Byte} (v : Byte) (h : l[p]? = some c) :
    (l.set o v)[p]? = some (if p = o then v else c) := by
  have hp : p < l.length := (List.getElem?_eq_some_iff.mp h).1
  by_cases hpo : p = o
  · rw [if_pos hpo, ← hpo, List.getElem?_set_self hp]
  · rw [if_neg hpo, List.getElem?_set_ne (Ne.symm hpo), h]

/-- Settles O36: each write stores in its own array and draws. -/
theorem videoRamReadsReturnTheLastWrite : Obligations.VideoRamReadsReturnTheLastWrite := by
  intro s o p v c k hw hh hchr hcol hc hk
  have hset : windowSet s = true := (windowSet_iff s).mpr ⟨hw, hh⟩
  refine ⟨execRdText_of_get hc, execRdColor_of_get hk, ?_, ?_⟩
  · exact ⟨_, execWrText_draws v hset hchr (List.getElem?_eq_getElem hcol),
      execRdText_of_get (getElem?_set_of_some v hc), execRdColor_of_get hk⟩
  · exact ⟨_, execWrColor_draws v hset hcol (List.getElem?_eq_getElem hchr),
      execRdColor_of_get (getElem?_set_of_some v hk), execRdText_of_get hc⟩

/-! ### The screen after more commands -/

/-- The screen goes on from the trace before (R261). -/
theorem screenOf_append (cs ds : List ConCmd) : screenOf (cs ++ ds) = ds.foldl Screen.apply (screenOf cs) :=
  List.foldl_append

/-- Only a flush makes anything visible (R259, R261). -/
theorem foldl_apply_visible {cs : List ConCmd} (h : ConCmd.flush ∉ cs) (scr : Screen) :
    (cs.foldl Screen.apply scr).visible = scr.visible := by
  induction cs generalizing scr with
  | nil => rfl
  | cons c cs ih =>
    obtain ⟨hc, hcs⟩ := not_or.mp (List.mem_cons.not.mp h)
    have hone : (scr.apply c).visible = scr.visible := by
      cases c with
      | setCursor | setColor => rfl
      | put => unfold Screen.apply; dsimp only; split <;> rfl
      | flush => exact absurd rfl hc
    exact (ih hcs _).trans hone

theorem cellAt_cons (p q : Nat × Nat) (c : ScreenCell) (grid : List ((Nat × Nat) × ScreenCell)) :
    cellAt ((p, c) :: grid) q = if p = q then some c else cellAt grid q := by
  by_cases h : p = q <;> simp [cellAt, h]

/-! ### The paint outside the window -/

/-- What a painted cell shows: the blank on the background colour of the byte's low four bits (R182). -/
def blankCell (s : State) (v : Byte) : ScreenCell where
  glyph := s.par.blankGlyph
  fg := palColor s.pal 1 (v.extractLsb' 0 4)
  bg := palColor s.pal 1 (v.extractLsb' 0 4)

/-- The cells of the terminal in the order of the paint (R189). -/
def terminalCells (s : State) : List (Nat × Nat) :=
  (List.range s.crh).flatMap fun cy => (List.range s.crw).map fun cx => (cx, cy)

theorem mem_terminalCells (s : State) (q : Nat × Nat) : q ∈ terminalCells s ↔ q.1 < s.crw ∧ q.2 < s.crh := by
  obtain ⟨x, y⟩ := q
  simp [terminalCells, and_comm]

theorem fillCmds_eq (s : State) (v : Byte) :
    fillCmds s v = (terminalCells s).flatMap fun p => fillCell s v p.1 p.2 := by
  rw [terminalCells, List.flatMap_assoc]
  simp only [List.flatMap_map]
  rfl

theorem flush_notMem_fillCmds (s : State) (v : Byte) : ConCmd.flush ∉ fillCmds s v := by
  have hcell : ∀ cx cy, ConCmd.flush ∉ fillCell s v cx cy := by
    intro cx cy
    unfold fillCell
    split <;> simp
  simp [fillCmds, hcell]

/-- Painting one cell: it alone changes, and only when it lies outside the window (R182). -/
theorem cellAt_fillCell (s : State) (v : Byte) (p q : Nat × Nat) (scr : Screen) :
    cellAt ((fillCell s v p.1 p.2).foldl Screen.apply scr).grid q
      = if p = q ∧ inWindow s q.1 q.2 = false then some (blankCell s v) else cellAt scr.grid q := by
  unfold fillCell
  cases hin : inWindow s p.1 p.2 with
  | true =>
    have hno : ¬(p = q ∧ inWindow s q.1 q.2 = false) := by
      rintro ⟨rfl, hout⟩
      rw [hin] at hout
      cases hout
    rw [if_neg hno]
    rfl
  | false =>
    refine (cellAt_cons p q (blankCell s v) scr.grid).trans ?_
    by_cases hpq : p = q
    · subst hpq
      rw [if_pos rfl, if_pos ⟨rfl, hin⟩]
    · rw [if_neg hpq, if_neg fun h => hpq h.1]

/-- Painting a row of cells: those of them that lie outside the window show the blank, the others what they showed. -/
theorem cellAt_fillCells (s : State) (v : Byte) (cells : List (Nat × Nat)) (q : Nat × Nat) (scr : Screen) :
    cellAt ((cells.flatMap fun p => fillCell s v p.1 p.2).foldl Screen.apply scr).grid q
      = if q ∈ cells ∧ inWindow s q.1 q.2 = false then some (blankCell s v) else cellAt scr.grid q := by
  induction cells generalizing scr with
  | nil => rw [if_neg fun h => List.not_mem_nil h.1]; rfl
  | cons p cells ih =>
    rw [List.flatMap_cons, List.foldl_append, ih, cellAt_fillCell]
    by_cases hlater : q ∈ cells ∧ inWindow s q.1 q.2 = false
    · rw [if_pos hlater, if_pos ⟨List.mem_cons_of_mem p hlater.1, hlater.2⟩]
    · rw [if_neg hlater]
      refine if_congr ⟨fun ⟨e, hout⟩ => ⟨List.mem_cons.mpr (.inl e.symm), hout⟩, fun ⟨hmem, hout⟩ => ⟨?_, hout⟩⟩ rfl rfl
      exact ((List.mem_cons.mp hmem).resolve_right fun h => hlater ⟨h, hout⟩).symm

/-- The screen after the paint of R182. -/
theorem screen_fillOutside (v : Byte) (s : State) (q : Nat × Nat) :
    (fillOutside v s).screen q
      = if (q.1 < s.crw ∧ q.2 < s.crh) ∧ inWindow s q.1 q.2 = false then some (blankCell s v) else s.screen q := by
  show cellAt (screenOf (s.conOut ++ fillCmds s v)).grid q = _
  rw [screenOf_append, fillCmds_eq, cellAt_fillCells, ← State.screen]
  simp only [mem_terminalCells]

theorem visible_fillOutside (v : Byte) (s : State) (q : Nat × Nat) : (fillOutside v s).visible q = s.visible q := by
  show cellAt (screenOf (s.conOut ++ fillCmds s v)).visible q = _
  rw [screenOf_append, foldl_apply_visible (flush_notMem_fillCmds s v)]
  rfl

/-- Settles O33: the latch moves neither window nor terminal, and the paint settles each cell. -/
theorem cFillOutPaintsExactlyOutsideTheWindow : Obligations.CFillOutPaintsExactlyOutsideTheWindow := by
  intro s v
  have hscreen := screen_fillOutside v (storeReg .cFillOut v s)
  refine ⟨fillOutside v (storeReg .cFillOut v s), rfl, rfl, List.prefix_append _ _, ?_, ?_, ?_, ?_, ?_⟩
  · intro cx cy hx hy hout
    exact (hscreen (cx, cy)).trans (if_pos ⟨⟨hx, hy⟩, hout⟩)
  · intro cx cy hin
    exact (hscreen (cx, cy)).trans (if_neg fun h => Bool.false_ne_true (h.2.symm.trans hin))
  · intro cx cy hbeyond
    exact (hscreen (cx, cy)).trans (if_neg fun ⟨⟨hx, hy⟩, _⟩ => hbeyond.elim (Nat.not_le_of_lt hx) (Nat.not_le_of_lt hy))
  · exact visible_fillOutside v _
  · intro cmds hcmds
    rw [← List.append_cancel_left hcmds]
    exact flush_notMem_fillCmds _ v

end Sys2Proof.Machine
end

section
/-! The decoder and the encoder are inverse to each other (30_encoding.md): region by region on the bus, then event by
event. -/

namespace Sys2Proof

/-- A word is given by its number. -/
theorem ofNat_toNat_self {n : Nat} (x : BitVec n) : BitVec.ofNat n x.toNat = x := by
  rw [BitVec.ofNat_toNat, BitVec.setWidth_eq]

/-! ### Offsets of the register page -/

/-- The offsets of the 17 registers, written out (R83). -/
theorem named_offset {off : Byte} (h : off.toNat ≤ 0x10) : ∃ k : Fin 17, off = BitVec.ofNat 8 k :=
  ⟨⟨off.toNat, by omega⟩, (ofNat_toNat_self off).symm⟩

/-- An offset that names no register is a palette byte's or unknown (R82, R88). -/
theorem unnamed_offset_cases (m : AddrMap) (off : Byte) :
    (∃ i, i < 96 ∧ m.inPalette off = true ∧ off.toNat - m.palOff.toNat = i ∧ palOffset m i = off)
      ∨ m.inPalette off = false := by
  cases hin : m.inPalette off with
  | false => exact .inr rfl
  | true =>
    simp only [AddrMap.inPalette, Bool.and_eq_true, decide_eq_true_eq] at hin
    have hback : m.palOff.toNat + (off.toNat - m.palOff.toNat) = off.toNat := by omega
    refine .inl ⟨_, by omega, rfl, rfl, ?_⟩
    rw [palOffset, hback, ofNat_toNat_self]

/-- A palette offset lies in the palette, above the registers (R8, R85). -/
theorem inPalette_palOffset {m : AddrMap} (hhi : m.palOff.toNat ≤ 0xA0) {i : Nat} (hi : i < 96) :
    m.inPalette (palOffset m i) = true := by
  simp only [AddrMap.inPalette, palOffset_toNat hhi hi, Bool.and_eq_true, decide_eq_true_eq]
  omega

theorem wf_rdUnknown_iff (m : AddrMap) (off : Byte) :
    (Instr.rdUnknown off).wf m = true ↔ 0x10 < off.toNat ∧ m.inPalette off = false := by
  show (decide (0x10 < off.toNat) && !m.inPalette off) = true ↔ _
  simp

theorem wf_wrUnknown (m : AddrMap) (off v : Byte) : (Instr.wrUnknown off v).wf m = (Instr.rdUnknown off).wf m := rfl

/-! ### Registers, palette and unknown offsets -/

theorem decodeRegRead_palOffset {m : AddrMap} (hlo : 0x11 ≤ m.palOff.toNat) (hhi : m.palOff.toNat ≤ 0xA0) {i : Nat}
    (hi : i < 96) : decodeRegRead m (palOffset m i) = .rdPal i := by
  have hoff := palOffset_toNat hhi hi
  rw [decodeRegRead_unnamed m (by omega), if_pos (inPalette_palOffset hhi hi), hoff, Nat.add_sub_cancel_left]

theorem decodeRegWrite_palOffset {m : AddrMap} (hlo : 0x11 ≤ m.palOff.toNat) (hhi : m.palOff.toNat ≤ 0xA0) {i : Nat}
    (hi : i < 96) (v : Byte) : decodeRegWrite m (palOffset m i) v = .wrPal i v := by
  have hoff := palOffset_toNat hhi hi
  rw [decodeRegWrite_unnamed m (by omega), if_pos (inPalette_palOffset hhi hi), hoff, Nat.add_sub_cancel_left]

theorem decodeRegRead_of_unknown {m : AddrMap} {off : Byte} (h : (Instr.rdUnknown off).wf m = true) :
    decodeRegRead m off = .rdUnknown off := by
  obtain ⟨hunnamed, hout⟩ := (wf_rdUnknown_iff m off).mp h
  rw [decodeRegRead_unnamed m hunnamed, hout]
  rfl

theorem decodeRegWrite_of_unknown {m : AddrMap} {off v : Byte} (h : (Instr.wrUnknown off v).wf m = true) :
    decodeRegWrite m off v = .wrUnknown off v := by
  obtain ⟨hunnamed, hout⟩ := (wf_rdUnknown_iff m off).mp (wf_wrUnknown m off v ▸ h)
  rw [decodeRegWrite_unnamed m hunnamed, hout]
  rfl

/-- What a read of the register page decodes to is well-formed and encodes to that read (R82, R83, R88). -/
theorem wf_and_encode_decodeRegRead (m : AddrMap) (off : Byte) :
    (decodeRegRead m off).wf m = true ∧ encode m (decodeRegRead m off) = encodeRegRead m off := by
  rcases Nat.lt_or_ge 0x10 off.toNat with hunnamed | hnamed
  · rw [decodeRegRead_unnamed m hunnamed]
    rcases unnamed_offset_cases m off with ⟨i, hi, hin, hindex, hoff⟩ | hout
    · rw [if_pos hin, hindex, ← hoff]
      exact ⟨decide_eq_true hi, rfl⟩
    · rw [hout]
      exact ⟨(wf_rdUnknown_iff m off).mpr ⟨hunnamed, hout⟩, rfl⟩
  · obtain ⟨k, rfl⟩ := named_offset hnamed
    fin_cases k <;> exact ⟨rfl, rfl⟩

/-- What a write to the register page decodes to is well-formed and encodes to that write (R82, R83, R88). -/
theorem wf_and_encode_decodeRegWrite (m : AddrMap) (off v : Byte) :
    (decodeRegWrite m off v).wf m = true ∧ encode m (decodeRegWrite m off v) = encodeRegWrite m off v := by
  rcases Nat.lt_or_ge 0x10 off.toNat with hunnamed | hnamed
  · rw [decodeRegWrite_unnamed m hunnamed]
    rcases unnamed_offset_cases m off with ⟨i, hi, hin, hindex, hoff⟩ | hout
    · rw [if_pos hin, hindex, ← hoff]
      exact ⟨decide_eq_true hi, rfl⟩
    · rw [hout]
      exact ⟨(wf_rdUnknown_iff m off).mpr ⟨hunnamed, hout⟩, rfl⟩
  · obtain ⟨k, rfl⟩ := named_offset hnamed
    fin_cases k <;> exact ⟨rfl, rfl⟩

/-! ### Transactions of each region -/

/-- A transaction on the register page, by `rw` (R82). -/
theorem decodeBus_of_reg {m : AddrMap} {a : Word16} {off : Byte} (h : decodeAddr m a = .reg off)
    (wr : Bool) (v : Byte) :
    decodeBus m (busWord wr a v) = .op (if wr = true then decodeRegWrite m off v else decodeRegRead m off) := by
  unfold decodeBus
  rw [addr_busWord, isWrite_busWord, data_busWord, h]
  cases wr <;> rfl

/-- A transaction in the text range, by `rw` (R82). -/
theorem decodeBus_of_text {m : AddrMap} {a : Word16} {o : Nat} (h : decodeAddr m a = .text o) (wr : Bool) (v : Byte) :
    decodeBus m (busWord wr a v) = .op (if wr = true then .wrText o v else .rdText o) := by
  unfold decodeBus
  rw [addr_busWord, isWrite_busWord, data_busWord, h]
  cases wr <;> rfl

/-- A transaction in the colour range, by `rw` (R82). -/
theorem decodeBus_of_color {m : AddrMap} {a : Word16} {o : Nat} (h : decodeAddr m a = .color o) (wr : Bool) (v : Byte) :
    decodeBus m (busWord wr a v) = .op (if wr = true then .wrColor o v else .rdColor o) := by
  unfold decodeBus
  rw [addr_busWord, isWrite_busWord, data_busWord, h]
  cases wr <;> rfl

theorem decodePacket_encodeRegRead {m : AddrMap} {off : Byte} {i : Instr} (h : decodeRegRead m off = i) :
    decodePacket m (encodeRegRead m off) = .op i :=
  h ▸ decodeBus_regRead m off 0

theorem decodePacket_encodeRegWrite {m : AddrMap} {off v : Byte} {i : Instr} (h : decodeRegWrite m off v = i) :
    decodePacket m (encodeRegWrite m off v) = .op i :=
  h ▸ decodeBus_regWrite m off v

/-- Offset `a - base` translates back to the address `a` (R151). -/
theorem ofNat_add_sub {base : Nat} {a : Word16} (h : base ≤ a.toNat) :
    BitVec.ofNat 16 (base + (a.toNat - base)) = a := by
  rw [Nat.add_sub_cancel' h, ofNat_toNat_self]

/-- What a transaction decodes to is well-formed and encodes to the transaction, whose data a read does not keep. -/
theorem wf_and_encode_of_decodeBus {m : AddrMap} {wr : Bool} {a : Word16} {v : Byte} {i : Instr}
    (h : decodeBus m (busWord wr a v) = .op i) :
    i.wf m = true ∧ encode m i = .bus (busWord wr a (if wr = true then v else 0)) := by
  rcases decodeAddr_cases m a with ⟨hpage, e⟩ | ⟨-, hlo, hhi, e⟩ | ⟨-, -, hlo, hhi, e⟩ | ⟨-, -, -, e⟩
  · obtain rfl := Decoded.op.inj ((decodeBus_of_reg e wr v).symm.trans h)
    have haddr : m.regPage ++ a.extractLsb' 0 8 = a := hpage ▸ page_off a
    rw [← haddr, off_append]
    cases wr with
    | false => exact wf_and_encode_decodeRegRead m _
    | true => exact wf_and_encode_decodeRegWrite m _ v
  · obtain rfl := Decoded.op.inj ((decodeBus_of_text e wr v).symm.trans h)
    have haddr : textAddr m (a.toNat - m.textBase) = a := ofNat_add_sub hlo
    have ho : a.toNat - m.textBase < m.size := by omega
    cases wr <;> exact ⟨decide_eq_true ho, congrArg (fun b => Packet.bus (busWord _ b _)) haddr⟩
  · obtain rfl := Decoded.op.inj ((decodeBus_of_color e wr v).symm.trans h)
    have haddr : colorAddr m (a.toNat - m.colorBase) = a := ofNat_add_sub hlo
    have ho : a.toNat - m.colorBase < m.size := by omega
    cases wr <;> exact ⟨decide_eq_true ho, congrArg (fun b => Packet.bus (busWord _ b _)) haddr⟩
  · have hmapped := (Machine.decodeBus_isOp_iff m (busWord wr a v)).mp ⟨i, h⟩
    rw [addr_busWord] at hmapped
    exact absurd e hmapped

/-- Settles O3: the transaction is its three fields. -/
theorem decodedOperationEncodesToItsTransaction : Obligations.DecodedOperationEncodesToItsTransaction := by
  intro m w i h
  rw [← busWord_fields w] at h
  exact wf_and_encode_of_decodeBus h

/-! ### Events -/

/-- `LOAD`'s operands give the address and the bytes back (R81). -/
theorem decodeEvt_load (a : Word16) (bs : List Byte) :
    decodeEvt 0x01 (a.toNat :: bs.map BitVec.toNat) = .op (.load a bs) := by
  have hbytes : (bs.map BitVec.toNat).all isByte = true := by
    simp only [List.all_map, List.all_eq_true]
    exact fun b _ => decide_eq_true b.isLt
  have hback : (bs.map BitVec.toNat).map (BitVec.ofNat 8) = bs := by
    rw [List.map_map]
    exact List.map_id'' ofNat_toNat_self bs
  refine (if_pos ⟨a.isLt, hbytes⟩).trans ?_
  rw [hback, ofNat_toNat_self]

theorem decodeEvt_start (entry : Word16) : decodeEvt 0x02 [entry.toNat] = .op (.start entry) := by
  refine (if_pos entry.isLt).trans ?_
  rw [ofNat_toNat_self]

theorem decodeEvt_key (b : Byte) : decodeEvt 0x04 [b.toNat] = .op (.key b) := by
  refine (if_pos b.isLt).trans ?_
  rw [ofNat_toNat_self]

/-- Settles O2, by cases on the operation: the registers by their offsets, VideoRAM by the translation of offsets, which
a valid and disjoint map makes exact, the events by their operands. -/
theorem encodeThenDecodeReturnsTheOperation : Obligations.EncodeThenDecodeReturnsTheOperation := by
  intro m hlo hhi hv hd i hwf
  cases i with
  | rdWinX | rdWinY | rdWinW | rdWinH | rdTextPtr | rdColorPtr | rdCharset | rdFreq | rdIrqE | rdIrqR | rdKeys
  | rdTimerLo | rdTimerHi | rdRealW | rdRealH | rdControl | rdCFillOut => exact decodePacket_encodeRegRead rfl
  | rdPal i => exact decodePacket_encodeRegRead (decodeRegRead_palOffset hlo hhi (of_decide_eq_true hwf))
  | rdUnknown off => exact decodePacket_encodeRegRead (decodeRegRead_of_unknown hwf)
  | wrWinX v | wrWinY v | wrWinW v | wrWinH v | wrTextPtr v | wrColorPtr v | wrCharset v | wrFreq v | wrIrqE v
  | wrIrqR v | wrKeys v | wrTimerLo v | wrTimerHi v | wrRealW v | wrRealH v | wrControl v | wrCFillOut v =>
    exact decodePacket_encodeRegWrite rfl
  | wrPal i v => exact decodePacket_encodeRegWrite (decodeRegWrite_palOffset hlo hhi (of_decide_eq_true hwf) v)
  | wrUnknown off v => exact decodePacket_encodeRegWrite (decodeRegWrite_of_unknown hwf)
  | rdText o => exact decodeBus_of_text (decodeAddr_text hv hd (of_decide_eq_true hwf)) false 0
  | rdColor o => exact decodeBus_of_color (decodeAddr_color hv hd (of_decide_eq_true hwf)) false 0
  | wrText o v => exact decodeBus_of_text (decodeAddr_text hv hd (of_decide_eq_true hwf)) true v
  | wrColor o v => exact decodeBus_of_color (decodeAddr_color hv hd (of_decide_eq_true hwf)) true v
  | load a bs => exact decodeEvt_load a bs
  | start entry => exact decodeEvt_start entry
  | key b => exact decodeEvt_key b
  | reset | tick | advance | resize | cpuStep => rfl

/-- Settles O1: the decoder evaluates on each of the words. -/
theorem wordsOfEachFamilyDecode : Obligations.WordsOfEachFamilyDecode := by
  unfold Obligations.WordsOfEachFamilyDecode
  decide

end Sys2Proof
end

section
/-! O21 to O25: the six geometry writes in their three outcomes, the remap, the configuration error and the refusal. -/

namespace Sys2Proof.Machine

/-! ### The three outcomes -/

/-- The six geometry writes with the registers that they write (R130 to R135). -/
def geometryWrites (v : Byte) : List (RegId × Instr) :=
  [(.winX, .wrWinX v), (.winY, .wrWinY v), (.winW, .wrWinW v), (.winH, .wrWinH v), (.textPtr, .wrTextPtr v),
    (.colorPtr, .wrColorPtr v)]

theorem exec_of_geometryWrite {r : RegId} {v : Byte} {i : Instr} (h : (r, i) ∈ geometryWrites v) (s : State) :
    exec i s = geomWrite r v s := by
  simp only [geometryWrites, List.mem_cons, Prod.mk.injEq, List.not_mem_nil, or_false] at h
  rcases h with ⟨rfl, rfl⟩ | ⟨rfl, rfl⟩ | ⟨rfl, rfl⟩ | ⟨rfl, rfl⟩ | ⟨rfl, rfl⟩ | ⟨rfl, rfl⟩ <;> rfl

/-- A geometry write past the address space raises the configuration error (R102, R157). -/
theorem geomWrite_of_invalid {r : RegId} {v : Byte} {s : State} (hv : ¬(mapOf s.par (s.x.set r v)).valid = true) :
    geomWrite r v s = .next (raiseConfigError .windowTooLarge r v s) :=
  if_neg hv

/-- A geometry write to a valid map whose ranges overlap is refused (R102, R158). -/
theorem geomWrite_of_overlap {r : RegId} {v : Byte} {s : State} (hv : (mapOf s.par (s.x.set r v)).valid = true)
    (hd : ¬(mapOf s.par (s.x.set r v)).disjoint = true) : geomWrite r v s = .refused .overlappingRanges := by
  rw [geomWrite, if_pos hv, if_neg hd]

/-! ### The remap -/

theorem remapped_remap (x' : Regs) (s : State) : Remapped x' s (remap x' s) := by
  refine ⟨rfl, length_resizeArray _ _ _, length_resizeArray _ _ _, fun _ => resizeArray_kept _,
    fun _ => resizeArray_kept _, fun a htext hcolor => ?_⟩
  have hsize : s.map.size = s.size := rfl
  exact read_leaveMap_outside s.mem (by omega) (by omega)

/-- Settles O21. -/
theorem geometryWriteStoresAndRemaps : Obligations.GeometryWriteStoresAndRemaps := by
  intro s v r i hi hv hd
  exact ⟨_, (exec_of_geometryWrite hi s).trans (geomWrite_of_ok hv hd), remapped_remap _ s⟩

/-- Arrays of the old size stay as they are under a remap to the same size (R156). -/
theorem remap_arrays_of_same_size {x' : Regs} {s : State} (hs : s.Inv) (hsize : ramSize x' = s.size) :
    (remap x' s).chr = s.chr ∧ (remap x' s).col = s.col := by
  rw [remap_chr, remap_col, hsize]
  exact ⟨hs.chr_size ▸ resizeArray_same s.chr _, hs.col_size ▸ resizeArray_same s.col _⟩

/-- A remap to the map in force changes the register file only, and the model's draw counter. -/
theorem remap_of_same_map {x' : Regs} {s : State} (hs : s.Inv) (hm : mapOf s.par x' = s.map) :
    remap x' s = { s with x := x', freeCtr := s.freeCtr + 1 } := by
  obtain ⟨hchr, hcol⟩ := remap_arrays_of_same_size hs (congrArg AddrMap.size hm)
  have hmem : (remap x' s).mem = s.mem := by
    rw [remap_mem, hm]
    exact leaveMap_same rfl rfl rfl _ _
  calc remap x' s
      = { s with x := x', chr := (remap x' s).chr, col := (remap x' s).col, mem := (remap x' s).mem
                 freeCtr := s.freeCtr + 1 } := rfl
    _ = { s with x := x', freeCtr := s.freeCtr + 1 } := by rw [hchr, hcol, hmem]

/-- A geometry write that leaves the map as it is completes (R130, R131). -/
theorem geomWrite_of_same_map {r : RegId} {v : Byte} {s : State} (hs : s.Inv)
    (hm : mapOf s.par (s.x.set r v) = s.map) :
    geomWrite r v s = .next { s with x := s.x.set r v, freeCtr := s.freeCtr + 1 } := by
  rw [geomWrite_of_ok (hm ▸ hs.map_valid) (hm ▸ hs.map_disjoint), remap_of_same_map hs hm]

/-- Settles O22: the map does not depend on the window's position. -/
theorem positionWriteAlwaysCompletes : Obligations.PositionWriteAlwaysCompletes := by
  intro s v hs
  exact ⟨geomWrite_of_same_map (r := .winX) hs rfl, geomWrite_of_same_map (r := .winY) hs rfl⟩

/-! ### The configuration error and the refusal -/

/-- MapValid in numbers: the range with the higher pointer ends inside the address space (R26, R157). -/
theorem mapOf_valid_iff (p : Params) (x : Regs) :
    (mapOf p x).valid = true ↔
      max x.textPtr.toNat x.colorPtr.toNat * 256 + (x.winW.toNat * x.winH.toNat + 255) / 256 * 256 ≤ 65536 := by
  rw [valid_iff]
  show x.textPtr.toNat * 256 + (x.winW.toNat * x.winH.toNat + 255) / 256 * 256 ≤ 65536
    ∧ x.colorPtr.toNat * 256 + (x.winW.toNat * x.winH.toNat + 255) / 256 * 256 ≤ 65536 ↔ _
  omega

/-- Settles O23. -/
theorem invalidGeometryWriteRaisesConfigError : Obligations.InvalidGeometryWriteRaisesConfigError := by
  intro s v r i hi hpast
  have hgeom : (r, i) ∈ geometryWrites v := List.mem_cons_of_mem _ (List.mem_cons_of_mem _ hi)
  have hinvalid : ¬(mapOf s.par (s.x.set r v)).valid = true := fun hv =>
    Nat.not_le_of_lt hpast ((mapOf_valid_iff s.par _).mp hv)
  exact (exec_of_geometryWrite hgeom s).trans (geomWrite_of_invalid hinvalid)

/-- Settles O24. -/
theorem overlappingGeometryWriteIsRefused : Obligations.OverlappingGeometryWriteIsRefused := by
  intro s v r i hi hv hd
  exact (exec_of_geometryWrite hi s).trans (geomWrite_of_overlap hv (Bool.not_eq_true _ ▸ hd))

/-! ### A pointer write -/

/-- A geometry write that answers without a configuration error remapped. -/
theorem geomWrite_next_of_no_error {r : RegId} {v : Byte} {s t : State} (h : geomWrite r v s = .next t)
    (herr : t.cfgErr = none) :
    (mapOf s.par (s.x.set r v)).valid = true ∧ (mapOf s.par (s.x.set r v)).disjoint = true
      ∧ t = remap (s.x.set r v) s := by
  rcases geomWrite_next h with hremap | ⟨-, rfl⟩
  · exact hremap
  · cases herr

/-- Settles O25: the size stays, so that both arrays do, and the new map is valid and disjoint, so that the offsets of
the new range translate. -/
theorem pointerWriteMovesTheContent : Obligations.PointerWriteMovesTheContent := by
  intro s t v hs
  refine ⟨fun h herr hnone => ?_, fun h herr hnone => ?_⟩
  · obtain ⟨hv, hd, rfl⟩ := geomWrite_next_of_no_error (r := .textPtr) h (herr.trans hnone)
    obtain ⟨hchr, hcol⟩ := remap_arrays_of_same_size (x' := s.x.set .textPtr v) hs rfl
    exact ⟨hchr, hcol, rfl, fun o ho => decodeAddr_text hv hd ho⟩
  · obtain ⟨hv, hd, rfl⟩ := geomWrite_next_of_no_error (r := .colorPtr) h (herr.trans hnone)
    obtain ⟨hchr, hcol⟩ := remap_arrays_of_same_size (x' := s.x.set .colorPtr v) hs rfl
    exact ⟨hchr, hcol, rfl, fun o ho => decodeAddr_color hv hd ho⟩

end Sys2Proof.Machine
end

section
/-! O29 to O31 and O42: the tick body on and off an enabled edge, its refusals, and the Control write that forces it. -/

namespace Sys2Proof.Machine

/-! ### The tick body -/

/-- An enabled edge as a condition on the two registers (R216, R217). -/
theorem timerEdge_iff (p : Params) (x : Regs) :
    timerEdge p x = true ↔ x.irqR &&& (1#8 <<< p.timerBit.val) = 0 ∧ x.irqE &&& (1#8 <<< p.timerBit.val) ≠ 0 := by
  rw [timerEdge, Bool.and_eq_true, Bool.not_eq_true', timerFlag, timerEnabled, decide_eq_false_iff_not,
    decide_eq_true_iff, ne_eq, not_not, timerMask]

/-- Raising the interrupt with a mapped vector cell is refused (R222). -/
theorem raiseIrq_of_mapped {s : State}
    (h : ¬(s.decode s.par.irqVector = .none ∧ s.decode (s.par.irqVector + 1) = .none)) :
    raiseIrq s = .refused .vectorMapped := by
  rw [raiseIrq, vectorTarget, if_neg h]

/-- The state of an update before any interrupt: flushed, with the timer bit latched (R216). -/
def updated (s : State) : State :=
  { s with conOut := s.conOut ++ [.flush], x := latchTimer s.par s.x }

theorem doUpdate_of_no_edge {s : State} (h : ¬timerEdge s.par s.x = true) : doUpdate s = .next (updated s) :=
  if_neg h

theorem doUpdate_of_edge {s : State} (h : timerEdge s.par s.x = true) : doUpdate s = raiseIrq (updated s) :=
  if_pos h

/-- An update on an enabled edge, with the vector in plain memory, raises to the vector's content (R216, R222). -/
theorem doUpdate_raises {s : State} (he : timerEdge s.par s.x = true) (h₁ : s.decode s.par.irqVector = .none)
    (h₂ : s.decode (s.par.irqVector + 1) = .none) :
    ∃ target, target.toNat = (s.mem.read s.par.irqVector.toNat).toNat
        + 256 * (s.mem.read (s.par.irqVector + 1).toNat).toNat
      ∧ doUpdate s = .next { updated s with irqOut := s.irqOut ++ [target] } := by
  rw [doUpdate_of_edge he]
  exact raiseIrq_of_plain (s := updated s) h₁ h₂

theorem refreshExtent_of_ok {s : State} (hw : dimOk s.cw = true) (hh : dimOk s.ch = true) :
    refreshExtent s = .next { s with crw := s.cw, crh := s.ch } :=
  if_pos ⟨hw, hh⟩

theorem refreshExtent_of_bad {s : State} (h : ¬(dimOk s.cw = true ∧ dimOk s.ch = true)) :
    refreshExtent s = .refused .consoleDims :=
  if_neg h

/-- A tick body off an enabled edge (R215, R216). -/
theorem tickBody_of_no_edge {s : State} (he : ¬timerEdge s.par s.x = true) (hw : dimOk s.cw = true)
    (hh : dimOk s.ch = true) :
    tickBody s = .next { updated s with crw := s.cw, crh := s.ch } := by
  rw [tickBody, doUpdate_of_no_edge he, andThen_of_next]
  exact refreshExtent_of_ok (s := updated s) hw hh

/-- A tick body on an enabled edge, with the vector in plain memory (R215, R216, R222). -/
theorem tickBody_raises {s : State} (he : timerEdge s.par s.x = true) (h₁ : s.decode s.par.irqVector = .none)
    (h₂ : s.decode (s.par.irqVector + 1) = .none) (hw : dimOk s.cw = true) (hh : dimOk s.ch = true) :
    ∃ target, target.toNat = (s.mem.read s.par.irqVector.toNat).toNat
        + 256 * (s.mem.read (s.par.irqVector + 1).toNat).toNat
      ∧ tickBody s = .next { updated s with crw := s.cw, crh := s.ch, irqOut := s.irqOut ++ [target] } := by
  obtain ⟨target, htarget, hupdate⟩ := doUpdate_raises he h₁ h₂
  refine ⟨target, htarget, ?_⟩
  rw [tickBody, hupdate, andThen_of_next]
  exact refreshExtent_of_ok (s := { updated s with irqOut := s.irqOut ++ [target] }) hw hh

/-- On an enabled edge a mapped vector cell refuses the tick body, whatever the console's size (R222). -/
theorem tickBody_of_mapped {s : State} (he : timerEdge s.par s.x = true)
    (hv : ¬(s.decode s.par.irqVector = .none ∧ s.decode (s.par.irqVector + 1) = .none)) :
    tickBody s = .refused .vectorMapped := by
  rw [tickBody, doUpdate_of_edge he, raiseIrq_of_mapped (s := updated s) hv]
  rfl

/-- Where the update completes, a console size outside 1..255 refuses the tick body (R215). -/
theorem tickBody_of_bad_size {s t : State} (hupdate : doUpdate s = .next t)
    (hsize : ¬(dimOk s.cw = true ∧ dimOk s.ch = true)) : tickBody s = .refused .consoleDims := by
  rw [tickBody, hupdate, andThen_of_next]
  obtain ⟨evs, rfl, -⟩ := doUpdate_next hupdate
  exact refreshExtent_of_bad hsize

/-! ### The Control write -/

/-- A Control write with bit 1 set is a tick body, then what bit 0 says (R146). -/
theorem exec_wrControl_of_forced {v : Byte} (h : v.getLsbD 1 = true) (s : State) :
    exec (.wrControl v) s = andThen (tickBody s) fun t => .next (if v.getLsbD 0 = true then halt t else t) := by
  show execWrControl v s = _
  rw [execWrControl, if_pos h]

/-- A Control write with bit 1 clear is what bit 0 says (R146). -/
theorem exec_wrControl_of_unforced {v : Byte} (h : v.getLsbD 1 = false) (s : State) :
    exec (.wrControl v) s = .next (if v.getLsbD 0 = true then halt s else s) := by
  show execWrControl v s = _
  rw [execWrControl, h]
  rfl

/-- With bit 0 clear a forced tick is the tick body (R146, R221). -/
theorem exec_wrControl_tick {v : Byte} (h₁ : v.getLsbD 1 = true) (h₀ : v.getLsbD 0 = false) (s : State) :
    exec (.wrControl v) s = tickBody s := by
  rw [exec_wrControl_of_forced h₁, h₀]
  exact andThen_next_right (tickBody s)

theorem halt_of_running {s : State} (h : s.sched = .running) :
    halt s = { s with haltReq := true, sched := .halted, conOut := s.conOut ++ [.flush] } :=
  if_pos h

theorem halt_of_not_running {s : State} (h : s.sched ≠ .running) : halt s = { s with haltReq := true } :=
  if_neg h

/-- Settles O29. -/
theorem controlWriteHalts : Obligations.ControlWriteHalts := by
  intro s v h₁
  rw [exec_wrControl_of_unforced h₁]
  refine ⟨fun h₀ => ?_, fun h₀ hrun => ?_, fun h₀ hrun => ?_⟩
  · rw [h₀]; rfl
  · rw [if_pos h₀, halt_of_running hrun]
  · rw [if_pos h₀, halt_of_not_running hrun]

/-- Settles O30: the forced tick is the tick body, on and off an enabled edge. -/
theorem forcedTickRunsTheTickBody : Obligations.ForcedTickRunsTheTickBody := by
  intro s v h₁ h₀ hw hh
  rw [exec_wrControl_tick h₁ h₀, ← timerEdge_iff]
  exact ⟨fun he => tickBody_of_no_edge he hw hh,
    fun hflag henable hv₁ hv₂ => tickBody_raises ((timerEdge_iff _ _).mpr ⟨hflag, henable⟩) hv₁ hv₂ hw hh⟩

/-- Settles O31: both sides halt the state that the tick body leaves. -/
theorem forcedTickComesBeforeTheHalt : Obligations.ForcedTickComesBeforeTheHalt := by
  intro s t v h₁ h₀ htick
  rw [exec_wrControl_tick rfl rfl] at htick
  rw [exec_wrControl_of_forced h₁, htick, andThen_of_next, if_pos h₀]
  rfl

/-! ### The refusals of `TICK` and of the forced tick -/

/-- An enabled `TICK` and every forced tick begin with a tick body, from a state that differs at most in the deadline
(R146, R214). -/
theorem exec_begins_with_tickBody {s : State} {i : Instr}
    (h : (i = .tick ∧ s.sched = .running ∧ s.nextUpdate ≤ s.now) ∨ ∃ v : Byte, v.getLsbD 1 = true ∧ i = .wrControl v) :
    ∃ n f, exec i s = andThen (tickBody { s with nextUpdate := n }) f := by
  rcases h with ⟨rfl, hrun, hdue⟩ | ⟨v, h₁, rfl⟩
  · have henabled : tickEnabled s = true := by simp [tickEnabled, hrun, hdue]
    exact ⟨_, .next, (if_pos henabled).trans (andThen_next_right _).symm⟩
  · exact ⟨s.nextUpdate, _, exec_wrControl_of_forced h₁ s⟩

/-- Settles O42: the tick body that both begin with is refused, and the deadline has no part in it. -/
theorem tickRefusals : Obligations.TickRefusals := by
  intro s i hi
  obtain ⟨n, f, hexec⟩ := exec_begins_with_tickBody hi
  rw [hexec, ← timerEdge_iff]
  refine ⟨fun hflag henable hv => ?_, fun hflag henable hv₁ hv₂ hsize => ?_, fun he hsize => ?_⟩
  · have he := (timerEdge_iff s.par s.x).mpr ⟨hflag, henable⟩
    rw [tickBody_of_mapped (s := { s with nextUpdate := n }) he hv]
    rfl
  · have he := (timerEdge_iff s.par s.x).mpr ⟨hflag, henable⟩
    obtain ⟨target, -, hupdate⟩ := doUpdate_raises (s := { s with nextUpdate := n }) he hv₁ hv₂
    rw [tickBody_of_bad_size hupdate hsize]
    rfl
  · rw [tickBody_of_bad_size (doUpdate_of_no_edge (s := { s with nextUpdate := n }) he) hsize]
    rfl

end Sys2Proof.Machine
end

section
/-! O14 to O19, O26 to O28 and O43: the other register reads and writes, and that none of them raises an interrupt. -/

namespace Sys2Proof.Machine

/-! ### Reads -/

/-- Settles O14. -/
theorem plainReadsReturnTheStoredByte : Obligations.PlainReadsReturnTheStoredByte :=
  fun _ => ⟨rfl, rfl, rfl, rfl, rfl, rfl, rfl, rfl, rfl, rfl⟩

theorem execRdKeys_of_nil {s : State} (h : s.keyq = []) : execRdKeys s = .next (giveByte 0 s) := by
  rw [execRdKeys, h]

theorem execRdKeys_of_cons {s : State} {b : Byte} {rest : List Byte} (h : s.keyq = b :: rest) :
    execRdKeys s = .next (giveByte b { s with keyq := rest }) := by
  rw [execRdKeys, h]

/-- Settles O15. -/
theorem keysReadDrainsOneKey : Obligations.KeysReadDrainsOneKey :=
  fun s => ⟨decodeBus_regRead s.map 0x0A#8, execRdKeys_of_nil, fun _ _ => execRdKeys_of_cons⟩

/-- The timer count as a number (R103). -/
theorem timerCount_toNat (s : State) : (timerCount s).toNat = (s.now - s.startT) / s.par.timerDiv % 65536 :=
  BitVec.toNat_ofNat _ _

theorem timerLo_eq (s : State) : timerLo s = BitVec.ofNat 8 ((s.now - s.startT) / s.par.timerDiv % 65536 % 256) := by
  rw [← timerCount_toNat, ← off_toNat, ofNat_toNat_self, timerLo]

theorem timerHi_eq (s : State) : timerHi s = BitVec.ofNat 8 ((s.now - s.startT) / s.par.timerDiv % 65536 / 256) := by
  rw [← timerCount_toNat, ← page_toNat, ofNat_toNat_self, timerHi]

/-- Settles O16. -/
theorem timerReadsSplitTheCount : Obligations.TimerReadsSplitTheCount := by
  intro s
  rw [← timerLo_eq, ← timerHi_eq]
  exact ⟨rfl, rfl⟩

/-- Settles O17: each read tests the live dimension that it returns. -/
theorem realSizeReadsAreLive : Obligations.RealSizeReadsAreLive := by
  intro s
  rw [← dimOk_iff, ← dimOk_iff]
  exact ⟨fun h => if_pos h, fun h => if_neg h, fun h => if_pos h, fun h => if_neg h⟩

/-- Settles O18. -/
theorem writeOnlyReadsReturnSomeByte : Obligations.WriteOnlyReadsReturnSomeByte :=
  fun s => ⟨⟨Config.controlRead s.freeCtr, rfl⟩, Config.cFillOutRead s.freeCtr, rfl⟩

/-- Settles O19: an offset of neither register nor palette is the operand of a well-formed unknown access. -/
theorem unknownRegistersReadZeroAndIgnoreWrites : Obligations.UnknownRegistersReadZeroAndIgnoreWrites := by
  intro s off v hunnamed hout
  have hpal : s.map.inPalette off = false := by
    rw [AddrMap.inPalette, ← Bool.decide_and]
    exact decide_eq_false hout
  have hwf : (Instr.rdUnknown off).wf s.map = true := (wf_rdUnknown_iff s.map off).mpr ⟨hunnamed, hpal⟩
  have hread : decodeBus s.map (busWord false (s.par.regPage ++ off) v) = _ := decodeBus_regRead s.map off v
  have hwrite : decodeBus s.map (busWord true (s.par.regPage ++ off) v) = _ := decodeBus_regWrite s.map off v
  rw [hread, hwrite, decodeRegRead_of_unknown hwf, decodeRegWrite_of_unknown (v := v) hwf]
  exact ⟨rfl, rfl, rfl, rfl⟩

/-! ### Writes -/

/-- Settles O26. -/
theorem plainWritesJustStore : Obligations.PlainWritesJustStore :=
  fun _ _ => ⟨rfl, rfl, rfl⟩

/-- Settles O28. -/
theorem writesToReadOnlyRegistersAreIgnored : Obligations.WritesToReadOnlyRegistersAreIgnored :=
  fun _ _ => ⟨rfl, rfl, rfl, rfl, rfl⟩

/-- A byte masked with one bit is zero exactly when it has the bit clear. -/
theorem and_bit_eq_zero_iff (x : Byte) (k : Fin 8) : x &&& (1#8 <<< k.val) = 0 ↔ x.getLsbD k.val = false := by
  have hone : BitVec.twoPow 8 k.val ≠ 0#8 := by
    intro h
    have hbit := congrArg (fun b : Byte => b.getLsbD k.val) h
    simp at hbit
  show x &&& BitVec.twoPow 8 k.val = 0#8 ↔ _
  rw [BitVec.and_twoPow]
  cases x.getLsbD k.val <;> simp [hone]

/-- Inverting one bit of a byte clears the bit exactly when it was set. -/
theorem xor_and_bit_eq_zero_iff (x : Byte) (k : Fin 8) :
    (x ^^^ (1#8 <<< k.val)) &&& (1#8 <<< k.val) = 0 ↔ x &&& (1#8 <<< k.val) ≠ 0 := by
  have hself : (1#8 <<< k.val).getLsbD k.val = true := by
    show (BitVec.twoPow 8 k.val).getLsbD k.val = true
    simp
  rw [Ne, and_bit_eq_zero_iff, and_bit_eq_zero_iff, BitVec.getLsbD_xor, hself]
  cases x.getLsbD k.val <;> simp

/-- Settles O27: the write is a bitwise XOR, and the acknowledge one of a single bit. -/
theorem irqRWriteInvertsTheGivenBits : Obligations.IrqRWriteInvertsTheGivenBits := by
  intro s v
  refine ⟨{ s with x := toggleIrqR v s.x }, rfl, rfl, fun j => ?_, ?_⟩
  · exact BitVec.getLsbD_xor
  · rintro rfl
    exact xor_and_bit_eq_zero_iff s.x.irqR s.par.timerBit

/-! ### No interrupt without a tick body -/

/-- A bus operation that forces no tick raises no interrupt (R138, R220). -/
theorem busOp_irqOut {i : Instr} (hb : isBusOp i = true) (hforced : ∀ v, i = .wrControl v → v.getLsbD 1 = false)
    {s t : State} (h : exec i s = .next t) : t.irqOut = s.irqOut := by
  cases i with
  | rdWinX | rdWinY | rdWinW | rdWinH | rdTextPtr | rdColorPtr | rdCharset | rdFreq | rdIrqE | rdIrqR
  | rdTimerLo | rdTimerHi | rdUnknown | rdControl | rdCFillOut => cases h; rfl
  | rdKeys | rdRealW | rdRealH | rdPal | rdText | rdColor =>
    simp only [exec, execRdKeys, execRdRealW, execRdRealH, execRdPal, execRdText, execRdColor] at h
    split at h <;> cases h <;> rfl
  | wrWinX | wrWinY | wrWinW | wrWinH | wrTextPtr | wrColorPtr =>
    rcases geomWrite_next h with ⟨-, -, rfl⟩ | ⟨-, rfl⟩ <;> rfl
  | wrCharset | wrFreq | wrIrqE | wrIrqR | wrCFillOut => cases h; rfl
  | wrKeys | wrTimerLo | wrTimerHi | wrRealW | wrRealH | wrUnknown => cases h; rfl
  | wrPal =>
    simp only [exec, execWrPal] at h
    split at h <;> cases h
    rfl
  | wrControl v =>
    rw [exec_wrControl_of_unforced (hforced v rfl)] at h
    cases h
    split
    · exact halt_irqOut s
    · rfl
  | wrText | wrColor =>
    simp only [exec, execWrText, execWrColor] at h
    split at h
    · split at h <;> cases h
      exact drawCell_irqOut _ _
    · cases h; rfl
  | reset | load | start | tick | key | advance | resize | cpuStep => cases hb

/-- `START` raises no interrupt, halted at once or not (R212). -/
theorem execStart_irqOut {e : Word16} {s t : State} (h : execStart e s = .next t) : t.irqOut = s.irqOut := by
  obtain ⟨-, ⟨-, rfl⟩ | ⟨-, rfl⟩⟩ := execStart_next h
  · exact (halt_irqOut _).trans (started_irqOut e s)
  · rfl

/-- Settles O43: what is left are the bus operations without a forced tick, `START` and the environment's events. -/
theorem onlyTheTickBodyRaises : Obligations.OnlyTheTickBodyRaises := by
  intro s t i h htick hcpu hload hreset hforced
  cases i with
  | tick => exact absurd rfl htick
  | cpuStep => exact absurd rfl hcpu
  | load a bs => exact absurd rfl (hload a bs)
  | reset w k => exact absurd rfl (hreset w k)
  | start e => exact execStart_irqOut h
  | key b => cases h; split <;> rfl
  | advance | resize => cases h; rfl
  | _ => exact busOp_irqOut rfl hforced h

end Sys2Proof.Machine
end

section
/-! O5: the translation of offsets and addresses of the two RAM ranges (41_bus_adapter.md). -/

namespace Sys2Proof

/-! ### From an address to its offset and back -/

/-- An address decodes to a text offset only inside the text range, as its distance from the base (R150, R151). -/
theorem range_of_decodeAddr_text {m : AddrMap} {a : Word16} {o : Nat} (h : decodeAddr m a = .text o) :
    m.textBase ≤ a.toNat ∧ a.toNat < m.textBase + m.size ∧ o = a.toNat - m.textBase := by
  rcases decodeAddr_cases m a with ⟨-, e⟩ | ⟨-, hlo, hhi, e⟩ | ⟨-, -, -, -, e⟩ | ⟨-, -, -, e⟩ <;> rw [e] at h
  case inr.inl => exact ⟨hlo, hhi, (Region.text.inj h).symm⟩
  all_goals cases h

/-- An address decodes to a colour offset only inside the colour range, as its distance from the base (R150, R151). -/
theorem range_of_decodeAddr_color {m : AddrMap} {a : Word16} {o : Nat} (h : decodeAddr m a = .color o) :
    m.colorBase ≤ a.toNat ∧ a.toNat < m.colorBase + m.size ∧ o = a.toNat - m.colorBase := by
  rcases decodeAddr_cases m a with ⟨-, e⟩ | ⟨-, -, -, e⟩ | ⟨-, -, hlo, hhi, e⟩ | ⟨-, -, -, e⟩ <;> rw [e] at h
  case inr.inr.inl => exact ⟨hlo, hhi, (Region.color.inj h).symm⟩
  all_goals cases h

/-! ### From an offset to its address, without wrap -/

/-- The address of an offset does not wrap in a range that ends inside the address space (R151, R157). -/
theorem toNat_ofNat_add {base size o : Nat} (hend : base + size ≤ 65536) (ho : o < size) :
    (BitVec.ofNat 16 (base + o)).toNat = base + o :=
  (BitVec.toNat_ofNat _ _).trans (Nat.mod_eq_of_lt (by omega))

theorem textAddr_toNat {m : AddrMap} (hv : m.valid = true) {o : Nat} (ho : o < m.size) :
    (textAddr m o).toNat = m.textBase + o :=
  toNat_ofNat_add ((valid_iff m).mp hv).1 ho

theorem colorAddr_toNat {m : AddrMap} (hv : m.valid = true) {o : Nat} (ho : o < m.size) :
    (colorAddr m o).toNat = m.colorBase + o :=
  toNat_ofNat_add ((valid_iff m).mp hv).2 ho

/-- Settles O5: an address in a range is its base plus its offset, and a valid map keeps that sum below 65536. -/
theorem offsetTranslationRoundTrips : Obligations.OffsetTranslationRoundTrips := by
  intro m hv hd
  refine ⟨fun a o h => ?_, fun a o h => ?_, fun o ho => ?_⟩
  · obtain ⟨hlo, hhi, rfl⟩ := range_of_decodeAddr_text h
    exact ⟨Nat.sub_lt_left_of_lt_add hlo hhi, rfl, ofNat_add_sub hlo⟩
  · obtain ⟨hlo, hhi, rfl⟩ := range_of_decodeAddr_color h
    exact ⟨Nat.sub_lt_left_of_lt_add hlo hhi, rfl, ofNat_add_sub hlo⟩
  · exact ⟨decodeAddr_text hv hd ho, textAddr_toNat hv ho, decodeAddr_color hv hd ho, colorAddr_toNat hv ho⟩

end Sys2Proof
end

section
/-! O32, O38 and O39: the window's closed form, the drawn cell on the screen, and that drawing stays on the terminal
(42_videoram_renderer.md). -/

namespace Sys2Proof.Machine

/-! ### The window under the transform, axis by axis -/

/-- Going `x` back from `c` around a terminal of `n` cells and `x` forth again leads to `c` (R183). -/
theorem wrapBack_add_modEq (x : Nat) {n c : Nat} (hc : c < n) : c + n - x % n + x ≡ c [MOD n] := by
  have hx : x % n < n := Nat.mod_lt x (Nat.zero_lt_of_lt hc)
  have hsum : c + n - x % n + x % n = c + n := by omega
  calc c + n - x % n + x ≡ c + n - x % n + x % n [MOD n] := (Nat.mod_modEq x n).symm.add_left _
    _ = c + n := hsum
    _ ≡ c [MOD n] := Nat.add_modEq_right

/-- Of the window's offsets that the transform sends to `c`, the closed form's is the least (R183). -/
theorem wrapBack_lt_iff (x w : Nat) {n c : Nat} (hc : c < n) :
    (c + n - x % n) % n < w ↔ ∃ i, i < w ∧ (i + x) % n = c := by
  have hback := wrapBack_add_modEq x hc
  constructor
  · intro hlt
    refine ⟨_, hlt, ?_⟩
    rw [Nat.mod_add_mod, hback, Nat.mod_eq_of_lt hc]
  · rintro ⟨i, hi, he⟩
    have hsame : c + n - x % n + x ≡ i + x [MOD n] :=
      hback.trans (by rw [Nat.ModEq, he, Nat.mod_eq_of_lt hc])
    calc (c + n - x % n) % n = i % n := hsame.add_right_cancel'
      _ ≤ i := Nat.mod_le i n
      _ < w := hi

theorem inWindow_iff (s : State) (cx cy : Nat) :
    inWindow s cx cy = true
      ↔ (cx + s.crw - s.x.winX.toNat % s.crw) % s.crw < s.x.winW.toNat
        ∧ (cy + s.crh - s.x.winY.toNat % s.crh) % s.crh < s.x.winH.toNat := by
  simp [inWindow]

/-- Settles O32: the closed form is the image on each axis. -/
theorem inWindowIsTheImageOfTheWindow : Obligations.InWindowIsTheImageOfTheWindow := by
  intro s cx cy hx hy
  rw [inWindow_iff, wrapBack_lt_iff _ _ hx, wrapBack_lt_iff _ _ hy]
  constructor
  · rintro ⟨⟨i, hi, hix⟩, j, hj, hjy⟩
    exact ⟨i, j, hi, hj, hix, hjy⟩
  · rintro ⟨i, j, hi, hj, hix, hjy⟩
    exact ⟨⟨i, hi, hix⟩, j, hj, hjy⟩

/-! ### A drawn cell on the screen -/

/-- Where VideoRAM has a byte, the window is set (R27). -/
theorem windowSet_of_lt_size {s : State} {o : Nat} (ho : o < s.size) : windowSet s = true := by
  have hzero : ¬(s.x.winW = 0 ∨ s.x.winH = 0) := fun h => by
    rw [State.size, ramSize_of_zero h] at ho
    exact Nat.not_lt_zero o ho
  exact (windowSet_iff s).mpr (not_or.mp hzero)

/-- Under the invariant a text or colour write in VideoRAM appends the commands of its cell, whose character is the
written or the stored one (R170, R171, R181). -/
theorem conOut_of_videoWrite {s t : State} {i : Instr} {o : Nat} {v c : Byte} (hs : s.Inv) (ho : o < s.size)
    (hi : (i = .wrText o v ∧ c = v) ∨ (i = .wrColor o v ∧ s.chr[o]? = some c)) (h : exec i s = .next t) :
    ∃ k, t.conOut = s.conOut ++ cellCmds s o c k := by
  have hset : windowSet s = true := windowSet_of_lt_size ho
  have hchr : o < s.chr.length := hs.chr_size ▸ ho
  have hcol : o < s.col.length := hs.col_size ▸ ho
  rcases hi with ⟨rfl, rfl⟩ | ⟨rfl, hc⟩
  · cases (execWrText_draws c hset hchr (List.getElem?_eq_getElem hcol)).symm.trans h
    exact ⟨s.col[o], rfl⟩
  · cases (execWrColor_draws v hset hcol hc).symm.trans h
    exact ⟨v, rfl⟩

/-- What a drawn cell shows: the character's glyph in the cell's two colours (R178). -/
def drawnCell (s : State) (c k : Byte) : ScreenCell where
  glyph := translate c
  fg := palColor s.pal 0 (cellIndices s.par.fgNibble c k).1
  bg := palColor s.pal 1 (cellIndices s.par.fgNibble c k).2

/-- The screen after the commands of one cell: it alone changes (R175, R178, R261). -/
theorem screen_of_cellCmds {s t : State} {o : Nat} {c k : Byte} (h : t.conOut = s.conOut ++ cellCmds s o c k)
    (q : Nat × Nat) : t.screen q = if coord s o = q then some (drawnCell s c k) else s.screen q := by
  rw [State.screen, h, screenOf_append]
  exact cellAt_cons (coord s o) q (drawnCell s c k) (screenOf s.conOut).grid

theorem visible_of_cellCmds {s t : State} {o : Nat} {c k : Byte} (h : t.conOut = s.conOut ++ cellCmds s o c k)
    (q : Nat × Nat) : t.visible q = s.visible q := by
  have hflush : ConCmd.flush ∉ cellCmds s o c k := by simp [cellCmds]
  rw [State.visible, h, screenOf_append, foldl_apply_visible hflush, State.visible]

/-- Settles O38: either write appends the commands of its cell, and those settle the screen. -/
theorem drawnCellShowsOnTheScreen : Obligations.DrawnCellShowsOnTheScreen := by
  intro s t i o v c hs ho hi h
  obtain ⟨k, hout⟩ := conOut_of_videoWrite hs ho hi h
  obtain ⟨hw, hh⟩ := hs.extent
  obtain ⟨hx, hy⟩ := coord_in_bounds ((dimOk_iff s.crw).mp hw).1 ((dimOk_iff s.crh).mp hh).1 o
  refine ⟨hx, hy, ⟨drawnCell s c k, ?_, rfl⟩, fun q hq => ?_, visible_of_cellCmds hout⟩
  · rw [screen_of_cellCmds hout, if_pos rfl]
  · rw [screen_of_cellCmds hout, if_neg hq.symm]

/-! ### Drawing on the terminal -/

/-- From `s` to `t` the trace grew by commands that stay on the terminal of `s`. -/
def DrawsOnTerminal (s t : State) : Prop :=
  ∃ cmds, t.conOut = s.conOut ++ cmds ∧ ∀ c ∈ cmds, c.inBounds s.crw s.crh

theorem DrawsOnTerminal.refl (s : State) : DrawsOnTerminal s s :=
  ⟨[], (List.append_nil _).symm, fun _ h => absurd h List.not_mem_nil⟩

/-- A draw of one cell stays on the terminal, as its position is a remainder (R175, R176). -/
theorem drawCell_drawsOnTerminal {s : State} (hw : 1 ≤ s.crw) (hh : 1 ≤ s.crh) (o : Nat) :
    DrawsOnTerminal s (drawCell o s) := by
  unfold drawCell
  split
  · rename_i c k _ _
    refine ⟨cellCmds s o c k, rfl, ?_⟩
    simpa [cellCmds, ConCmd.inBounds] using coord_in_bounds hw hh o
  · exact .refl s

theorem fillCell_inBounds (s : State) (v : Byte) {cx cy : Nat} (hx : cx < s.crw) (hy : cy < s.crh) :
    ∀ c ∈ fillCell s v cx cy, c.inBounds s.crw s.crh := by
  unfold fillCell
  split
  · exact fun _ h => absurd h List.not_mem_nil
  · simpa [ConCmd.inBounds] using ⟨hx, hy⟩

/-- The paint outside the window visits cells of the terminal only (R182). -/
theorem fillCmds_inBounds (s : State) (v : Byte) : ∀ c ∈ fillCmds s v, c.inBounds s.crw s.crh := by
  intro c hc
  rw [fillCmds_eq] at hc
  obtain ⟨p, hp, hc⟩ := List.mem_flatMap.mp hc
  obtain ⟨hx, hy⟩ := (mem_terminalCells s p).mp hp
  exact fillCell_inBounds s v hx hy c hc

theorem execWrText_drawsOnTerminal {s t : State} {o : Nat} {v : Byte} (hw : 1 ≤ s.crw) (hh : 1 ≤ s.crh)
    (h : execWrText o v s = .next t) : DrawsOnTerminal s t := by
  unfold execWrText at h
  split at h
  · split at h <;> cases h
    exact drawCell_drawsOnTerminal (s := { s with chr := s.chr.set o v }) hw hh o
  · cases h; exact .refl s

theorem execWrColor_drawsOnTerminal {s t : State} {o : Nat} {v : Byte} (hw : 1 ≤ s.crw) (hh : 1 ≤ s.crh)
    (h : execWrColor o v s = .next t) : DrawsOnTerminal s t := by
  unfold execWrColor at h
  split at h
  · split at h <;> cases h
    exact drawCell_drawsOnTerminal (s := { s with col := s.col.set o v }) hw hh o
  · cases h; exact .refl s

theorem execWrCFillOut_drawsOnTerminal {s t : State} {v : Byte} (h : execWrCFillOut v s = .next t) :
    DrawsOnTerminal s t := by
  cases h
  exact ⟨fillCmds (storeReg .cFillOut v s) v, rfl, fillCmds_inBounds (storeReg .cFillOut v s) v⟩

/-- `START` paints the frame; a pending halt adds its flush, which moves no cursor (R212, R223). -/
theorem execStart_drawsOnTerminal {s t : State} {e : Word16} (h : execStart e s = .next t) : DrawsOnTerminal s t := by
  have hframe := fillCmds_inBounds s s.x.cFillOut
  obtain ⟨-, ⟨-, rfl⟩ | ⟨-, rfl⟩⟩ := execStart_next h
  · refine ⟨fillCmds s s.x.cFillOut ++ [.flush], ?_, ?_⟩
    · rw [halt_conOut, if_pos (started_sched e s), started_conOut, List.append_assoc]
    · exact List.forall_mem_append.mpr ⟨hframe, List.forall_mem_singleton.mpr trivial⟩
  · exact ⟨fillCmds s s.x.cFillOut, started_conOut e s, hframe⟩

/-- Settles O39: each of the four drawing operations appends commands that stay on the terminal. -/
theorem drawingStaysOnTheTerminal : Obligations.DrawingStaysOnTheTerminal := by
  rintro s t i hw hh (⟨o, v, rfl⟩ | ⟨o, v, rfl⟩ | ⟨v, rfl⟩ | ⟨e, rfl⟩) h
  · exact execWrText_drawsOnTerminal hw hh h
  · exact execWrColor_drawsOnTerminal hw hh h
  · exact execWrCFillOut_drawsOnTerminal h
  · exact execStart_drawsOnTerminal h

end Sys2Proof.Machine
end

section
/-! O13, O40, O41, O46 and O47: when `TICK` and `CPUSTEP` are enabled and what they do then, `START`, and the
environment's events (44_scheduler.md). -/

namespace Sys2Proof.Machine

/-! ### Which faults an operation can end in -/

/-- A sequence that ends in a fault does so in its first part or in its second. -/
theorem andThen_fault {α β : Type} {r : Host.Outcome α Fault Refusal} {f : α → Host.Outcome β Fault Refusal}
    {e : Fault} (h : andThen r f = .fault e) : r = .fault e ∨ ∃ u, r = .next u ∧ f u = .fault e := by
  cases r with
  | next u => exact .inr ⟨u, rfl, h⟩
  | fault => cases h; exact .inl rfl
  | refused => cases h

theorem geomWrite_ne_fault (r : RegId) (v : Byte) (s : State) (e : Fault) : geomWrite r v s ≠ .fault e := by
  intro h
  unfold geomWrite at h
  split at h
  · split at h <;> cases h
  · cases h

theorem doUpdate_ne_fault (s : State) (e : Fault) : doUpdate s ≠ .fault e := by
  intro h
  by_cases hedge : timerEdge s.par s.x = true
  · rw [doUpdate_of_edge hedge, raiseIrq] at h
    split at h <;> cases h
  · rw [doUpdate_of_no_edge hedge] at h
    cases h

/-- A tick body completes or is refused (R215, R216). -/
theorem tickBody_ne_fault (s : State) (e : Fault) : tickBody s ≠ .fault e := by
  intro h
  rcases andThen_fault h with hupdate | ⟨u, -, hrefresh⟩
  · exact doUpdate_ne_fault s e hupdate
  · unfold refreshExtent at hrefresh
    split at hrefresh <;> cases hrefresh

theorem execWrControl_ne_fault (v : Byte) (s : State) (e : Fault) : execWrControl v s ≠ .fault e := by
  intro h
  rcases andThen_fault h with htick | ⟨u, -, hhalt⟩
  · split at htick
    · exact tickBody_ne_fault s e htick
    · cases htick
  · cases hhalt

/-- The only fault of a bus operation is an operand that no encoding gives (log entry 18). -/
theorem busOp_fault {i : Instr} (hb : isBusOp i = true) {s : State} {e : Fault} (h : exec i s = .fault e) :
    e = .illFormed := by
  cases i with
  | rdWinX | rdWinY | rdWinW | rdWinH | rdTextPtr | rdColorPtr | rdCharset | rdFreq | rdIrqE | rdIrqR
  | rdTimerLo | rdTimerHi | rdUnknown | rdControl | rdCFillOut => cases h
  | rdKeys | rdRealW | rdRealH =>
    simp only [exec, execRdKeys, execRdRealW, execRdRealH] at h
    split at h <;> cases h
  | rdPal | rdText | rdColor =>
    simp only [exec, execRdPal, execRdText, execRdColor] at h
    split at h <;> cases h
    rfl
  | wrWinX | wrWinY | wrWinW | wrWinH | wrTextPtr | wrColorPtr => exact absurd h (geomWrite_ne_fault _ _ s e)
  | wrCharset | wrFreq | wrIrqE | wrIrqR | wrCFillOut => cases h
  | wrKeys | wrTimerLo | wrTimerHi | wrRealW | wrRealH | wrUnknown => cases h
  | wrPal =>
    simp only [exec, execWrPal] at h
    split at h <;> cases h
    rfl
  | wrControl v => exact absurd h (execWrControl_ne_fault v s e)
  | wrText | wrColor =>
    simp only [exec, execWrText, execWrColor] at h
    split at h
    · split at h <;> cases h
      rfl
    · cases h
  | reset | load | start | tick | key | advance | resize | cpuStep => cases hb

theorem busAccess_fault {w : BusWord} {s : State} {e : Fault} (h : busAccess w s = .fault e) : e = .illFormed := by
  rcases busAccess_cases w s with ⟨i, -, hb, hi⟩ | hplain | hplain
  · exact busOp_fault hb (hi.symm.trans h)
  · rw [hplain] at h; cases h
  · rw [hplain] at h; cases h

theorem busAccesses_fault {ws : List BusWord} {s : State} {e : Fault} (h : busAccesses ws s = .fault e) :
    e = .illFormed := by
  induction ws generalizing s with
  | nil => cases h
  | cons w ws ih =>
    rcases andThen_fault h with hfirst | ⟨u, -, hothers⟩
    · exact busAccess_fault hfirst
    · exact ih hothers

/-! ### `TICK` and `CPUSTEP` -/

/-- The enabling condition of `TICK` (R214). -/
theorem tickEnabled_iff (s : State) : tickEnabled s = true ↔ s.sched = .running ∧ s.nextUpdate ≤ s.now := by
  simp [tickEnabled]

/-- An enabled `TICK` is a tick body with the deadline one period later (R214, R232). -/
theorem execTick_of_enabled {s : State} (hrun : s.sched = .running) (hdue : s.nextUpdate ≤ s.now) :
    execTick s = tickBody { s with nextUpdate := s.nextUpdate + s.par.tPeriod } :=
  if_pos ((tickEnabled_iff s).mpr ⟨hrun, hdue⟩)

/-- Settles O13: a tick body never faults, and the only fault of a bus access is another one. -/
theorem disabledEventsAreNoStep : Obligations.DisabledEventsAreNoStep := by
  intro s
  refine ⟨⟨fun h ⟨hrun, hdue⟩ => ?_, fun hoff => ?_⟩, ⟨fun h hrun => ?_, fun hoff => if_neg hoff⟩⟩
  · exact tickBody_ne_fault _ _ ((execTick_of_enabled hrun hdue).symm.trans h)
  · exact if_neg ((tickEnabled_iff s).not.mpr hoff)
  · have hsteps : busAccesses (nextAccesses s).1 (nextAccesses s).2 = .fault (.notEnabled "CPUSTEP") :=
      (if_pos hrun).symm.trans h
    cases busAccesses_fault hsteps

/-- Settles O41: the tick body of the machine with its deadline moved, on and off an enabled edge. -/
theorem tickLatchesAndRaisesOnAnEnabledEdge : Obligations.TickLatchesAndRaisesOnAnEnabledEdge := by
  intro s hrun hdue hw hh
  rw [show exec .tick s = _ from execTick_of_enabled hrun hdue, ← timerEdge_iff]
  refine ⟨fun he => tickBody_of_no_edge he hw hh, fun hflag henable hv₁ hv₂ => ?_⟩
  have he := (timerEdge_iff s.par s.x).mpr ⟨hflag, henable⟩
  exact tickBody_raises (s := { s with nextUpdate := s.nextUpdate + s.par.tPeriod }) he hv₁ hv₂ hw hh

theorem busAccesses_singleton (w : BusWord) (s : State) : busAccesses [w] s = busAccess w s :=
  andThen_next_right _

/-- Settles O47: the queued access that decodes to an operation performs it, and the step goes on with the others. -/
theorem cpuStepPerformsItsAccess : Obligations.CpuStepPerformsItsAccess := by
  intro s w ws rest i hrun hq hi
  have hfirst : busAccess w { s with cpuq := rest } = exec i { s with cpuq := rest } := busAccess_of_op hi
  refine ⟨fun hlast => ?_, fun t ht hrun' => cpuStep_of_first hrun hq (hfirst.trans ht) hrun'⟩
  rw [cpuStep_of_queued hrun hq, hlast, busAccesses_singleton, hfirst]

/-! ### `START` -/

/-- `START` goes to the cached address only from the canonical entry, and only where one is cached (R213). -/
theorem startTarget_of_none {s : State} (h : s.autostart = none) (entry : Word16) : startTarget s entry = entry := by
  rw [startTarget, h, Option.getD_none, ite_self]

theorem startTarget_of_some {s : State} {a : Word16} (h : s.autostart = some a) (entry : Word16) :
    startTarget s entry = if entry = s.par.basicLoadAddr then a else entry := by
  rw [startTarget, h, Option.getD_some]

/-- From Stopped, `START` starts the machine, and halts it at once when a halt is pending (R212). -/
theorem execStart_of_stopped {s : State} (h : s.sched = .stopped) (entry : Word16) :
    execStart entry s = .next (if s.haltReq = true then halt (started entry s) else started entry s) :=
  if_pos h

/-- Settles O40: the started machine, and its halt where one was requested before. -/
theorem startFramesAndRuns : Obligations.StartFramesAndRuns := by
  intro s entry target htarget
  have hpc : startTarget s entry = target := by
    cases hauto : s.autostart with
    | none => rw [htarget, startTarget_of_none hauto, hauto]
    | some a => rw [htarget, startTarget_of_some hauto, hauto]
  rw [show exec (.start entry) s = execStart entry s from rfl, ← hpc]
  refine ⟨fun hstop hreq => ?_, fun hstop hreq => ?_, fun hoff => if_neg hoff⟩
  · rw [execStart_of_stopped hstop, hreq, if_neg Bool.false_ne_true, ← hreq]
    rfl
  · rw [execStart_of_stopped hstop, if_pos hreq, halt_of_running (started_sched entry s), hreq]
    rfl

/-! ### The environment's events -/

/-- The buffer takes a key when it is unbounded or below its depth (R260). -/
theorem keyRoom_iff (s : State) : keyRoom s = true ↔ ∀ d, s.par.keybufDepth = some d → s.keyq.length < d := by
  unfold keyRoom
  cases s.par.keybufDepth <;> simp

theorem exec_key_of_room {s : State} (h : keyRoom s = true) (b : Byte) :
    exec (.key b) s = .next { s with keyq := s.keyq ++ [b] } :=
  congrArg Host.Outcome.next (if_pos h)

theorem exec_key_of_full {s : State} (h : ¬keyRoom s = true) (b : Byte) : exec (.key b) s = .next s :=
  congrArg Host.Outcome.next (if_neg h)

/-- Settles O46. -/
theorem environmentEventsAlwaysComplete : Obligations.EnvironmentEventsAlwaysComplete := by
  intro s dt w h b
  refine ⟨rfl, rfl, fun hroom => exec_key_of_room ((keyRoom_iff s).mpr hroom) b, fun d hd hfull => ?_⟩
  exact exec_key_of_full (fun hroom => Nat.not_lt_of_le hfull ((keyRoom_iff s).mp hroom d hd)) b

end Sys2Proof.Machine
end

section
/-! O44 and O45: a second update without an acknowledge, and what a halt makes visible. -/

namespace Sys2Proof.Machine

/-! ### The timer bit -/

/-- While the timer bit is set there is no edge, enabled or not (R216, R218). -/
theorem no_edge_of_flag {p : Params} {x : Regs} (h : x.irqR &&& (1#8 <<< p.timerBit.val) ≠ 0) :
    ¬timerEdge p x = true := fun he =>
  h ((timerEdge_iff p x).mp he).1

theorem latchTimer_sets_flag (p : Params) (x : Regs) : (latchTimer p x).irqR &&& (1#8 <<< p.timerBit.val) ≠ 0 := by
  rw [Ne, and_bit_eq_zero_iff, latchTimer, timerMask]
  simp

theorem latchTimer_latchTimer (p : Params) (x : Regs) : latchTimer p (latchTimer p x) = latchTimer p x := by
  simp only [latchTimer, BitVec.or_assoc, BitVec.or_self]

/-- Settles O44: an update leaves the timer bit set, so that the next one sees no edge. -/
theorem secondUpdateRaisesNothing : Obligations.SecondUpdateRaisesNothing := by
  refine ⟨fun s t h => ?_, fun s t hflag h => ?_⟩
  · obtain ⟨evs, rfl, hevs⟩ := doUpdate_next h
    have hset := latchTimer_sets_flag s.par s.x
    have hone : evs.length ≤ 1 := by
      rcases hevs with ⟨-, rfl⟩ | ⟨-, target, rfl⟩ <;> simp
    refine ⟨hset, ?_, _, doUpdate_of_no_edge (no_edge_of_flag hset), rfl, latchTimer_latchTimer s.par s.x⟩
    rw [List.length_append]
    exact Nat.add_le_add_left hone _
  · rw [doUpdate_of_no_edge (no_edge_of_flag hflag)] at h
    cases h
    rfl

/-! ### The final flush -/

/-- Right after a flush what is visible is the screen (R259, R261). -/
theorem visible_of_flush {t : State} {cmds : List ConCmd} (h : t.conOut = cmds ++ [.flush]) (q : Nat × Nat) :
    t.visible q = t.screen q := by
  rw [State.visible, State.screen, h, screenOf_append]
  rfl

/-- The halt of a running machine `u` whose trace goes on from that of `s` (R223). -/
theorem halt_shows_screen {s u : State} (hrun : u.sched = .running) (htrace : s.conOut <+: u.conOut) :
    (halt u).sched = .halted ∧ (halt u).haltReq = true ∧ (∃ cmds, (halt u).conOut = s.conOut ++ cmds ++ [.flush])
      ∧ ∀ q, (halt u).visible q = (halt u).screen q := by
  obtain ⟨cmds, hcmds⟩ := htrace
  have hout : (halt u).conOut = s.conOut ++ cmds ++ [.flush] := by rw [halt_of_running hrun, hcmds]
  exact ⟨by rw [halt_of_running hrun], halt_haltReq u, ⟨cmds, hout⟩, visible_of_flush hout⟩

/-- Settles O45: either operation ends with the halt of a running machine, after a tick body at most or the frame. -/
theorem haltMakesTheScreenVisible : Obligations.HaltMakesTheScreenVisible := by
  rintro s t i (⟨hrun, v, hv, rfl⟩ | ⟨-, hreq, entry, rfl⟩) h
  · obtain ⟨u, hu, rfl⟩ := execWrControl_next h
    rw [if_pos hv]
    split at hu
    · obtain ⟨-, -, evs, rfl, -⟩ := tickBody_next hu
      exact halt_shows_screen hrun (List.prefix_append _ _)
    · cases hu
      exact halt_shows_screen hrun List.prefix_rfl
  · obtain ⟨-, ⟨-, rfl⟩ | ⟨hno, -⟩⟩ := execStart_next h
    · exact halt_shows_screen (started_sched entry s) (started_traces entry s).1
    · rw [hreq] at hno
      cases hno

end Sys2Proof.Machine
end

section
/-! O56 to O60: the two drives (R228 to R231), from what the environment leaves alone and from how a quantum goes. -/

namespace Sys2Proof.Machine

/-! ### The environment -/

theorem elapsed_append (vs ws : List EnvEvent) : elapsed (vs ++ ws) = elapsed vs + elapsed ws := by
  induction vs with
  | nil => exact (Nat.zero_add _).symm
  | cons v vs ih =>
    cases v with
    | advance dt => rw [List.cons_append, elapsed, elapsed, ih, Nat.add_assoc]
    | key | resize => exact ih

/-- What the environment's events leave: the clock, the keys and the console's size alone may differ (R226, R227,
R260). -/
theorem environment_frame {vs : List EnvEvent} {s t : State} (h : environment vs s = .next t) :
    ∃ keys w k, t = { s with now := s.now + elapsed vs, keyq := s.keyq ++ keys, cw := w, ch := k } := by
  obtain ⟨keys, w, k, e⟩ := environment_next vs s
  rw [h] at e
  injection e with e
  exact ⟨keys, w, k, e⟩

theorem environment_haltReq {vs : List EnvEvent} {s t : State} (h : environment vs s = .next t) :
    t.haltReq = s.haltReq := by
  obtain ⟨keys, w, k, rfl⟩ := environment_frame h
  rfl

/-- An event of the environment leaves the scheduler's state. -/
theorem exec_envInstr_sched {v : EnvEvent} {s t : State} (h : exec (envInstr v) s = .next t) : t.sched = s.sched := by
  have hone : environment [v] s = .next t := by rw [environment, h]; rfl
  obtain ⟨keys, w, k, rfl⟩ := environment_frame hone
  rfl

/-! ### The quantum -/

theorem not_running_of_halted {s : State} (h : s.sched = .halted) : s.sched ≠ .running := by
  rw [h]
  decide

/-- A unit of a running machine and then the rest of the quantum, with a count one higher (R230, R263). -/
theorem execute_of_unit {q : Nat} {vs : List EnvEvent} {units : List (List EnvEvent)} {s t : State} {e : Executed}
    (hrun : s.sched = .running) (hunit : andThen (environment vs s) execCpuStep = .next t)
    (hrest : execute q units t = .next e) :
    execute (q + 1) (vs :: units) s = .next { e with cyclesRun := e.cyclesRun + 1 } := by
  rw [execute, if_pos hrun, hunit, andThen_of_next, hrest, andThen_of_next]

/-- What the environment does before a unit happens before it. -/
theorem execute_of_event {v : EnvEvent} {s t : State} (hrun : s.sched = .running)
    (h : exec (envInstr v) s = .next t) (q : Nat) (vs : List EnvEvent) (units : List (List EnvEvent)) :
    execute (q + 1) ((v :: vs) :: units) s = execute (q + 1) (vs :: units) t := by
  have hrun' : t.sched = .running := (exec_envInstr_sched h).trans hrun
  rw [execute, execute, if_pos hrun, if_pos hrun', environment, h, andThen_of_next]

theorem execute_nil (q : Nat) (s : State) : execute q [] s = .next { state := s, cyclesRun := 0 } := by
  cases q <;> rfl

/-- A quantum runs no more units than it may and than the core has, and exactly so many when it leaves the machine
running (R263). -/
theorem execute_count {q : Nat} {units : List (List EnvEvent)} {s : State} {e : Executed}
    (h : execute q units s = .next e) :
    e.cyclesRun ≤ min q units.length ∧ (e.state.sched = .running → e.cyclesRun = min q units.length) := by
  induction q generalizing units s e with
  | zero => cases h; simp
  | succ q ih =>
    rcases execute_next h with ⟨hnone, rfl⟩ | ⟨p, vs, us, t, e', hp, rfl, -, -, hrest, rfl⟩
    · refine ⟨Nat.zero_le _, fun hrun => ?_⟩
      rcases hnone with hq | rfl | hoff
      · cases hq
      · rfl
      · exact absurd hrun hoff
    · cases hp
      obtain ⟨hle, heq⟩ := ih hrest
      rw [List.length_cons, Nat.add_min_add_right]
      exact ⟨Nat.add_le_add_right hle 1, fun hrun => congrArg (· + 1) (heq hrun)⟩

/-- A running machine with a unit to run runs one. -/
theorem execute_runs_one {q : Nat} {units : List (List EnvEvent)} {s : State} {e : Executed}
    (h : execute q units s = .next e) (hrun : s.sched = .running) (hq : 0 < q) (hunits : units ≠ []) :
    0 < e.cyclesRun := by
  rcases execute_next h with ⟨rfl | hnil | hoff, -⟩ | ⟨-, -, -, -, -, -, -, -, -, -, rfl⟩
  · cases hq
  · exact absurd hnil hunits
  · exact absurd hrun hoff
  · exact Nat.succ_pos _

/-- After a halt neither a longer quantum nor more units change anything (R223). -/
theorem execute_extend {q : Nat} {units : List (List EnvEvent)} {s : State} {e : Executed}
    (h : execute q units s = .next e) (hhalt : e.state.sched = .halted) (n : Nat) (more : List (List EnvEvent)) :
    execute (q + n) (units ++ more) s = .next e := by
  induction q generalizing units s e with
  | zero => cases h; exact execute_not_running (not_running_of_halted hhalt) _ _
  | succ q ih =>
    rcases execute_next h with ⟨-, rfl⟩ | ⟨p, vs, us, t, e', hp, rfl, hrun, hunit, hrest, rfl⟩
    · exact execute_not_running (not_running_of_halted hhalt) _ _
    · cases hp
      rw [Nat.add_right_comm]
      exact execute_of_unit hrun hunit (ih hrest hhalt)

/-- Settles O58. -/
theorem executeCountsTheUnitsItRuns : Obligations.ExecuteCountsTheUnitsItRuns := by
  intro s q units
  refine ⟨rfl, execute_nil q s, fun hoff => execute_not_running hoff q units,
    fun hrun => ⟨fun t e ht he => ?_, ?_, ?_, ?_⟩, fun e he => ?_⟩
  · exact execute_of_unit (vs := []) hrun ht he
  · exact fun dt vs => execute_of_event (v := .advance dt) hrun rfl q vs units
  · exact fun w h vs => execute_of_event (v := .resize w h) hrun rfl q vs units
  · exact fun b vs t ht => execute_of_event (v := .key b) hrun ht q vs units
  · obtain ⟨hle, heq⟩ := execute_count he
    exact ⟨hle, heq, execute_runs_one he⟩

/-! ### A call of `update` -/

/-- What `update` reports after a quantum `e` and in the state `t` at the end of the call (R231). -/
def callReport (e : Executed) (t : State) : UpdateReport where
  state := t
  halted := t.halted
  cpuIdle := e.cpuIdle
  ran := decide (0 < e.cyclesRun)

/-- An `update` call is its quantum, what the environment does then, the clock test, and the report (R230, R231). -/
theorem updateCall_eq {q : Nat} {k : Quantum} {s u : State} {e : Executed} (he : execute q k.units s = .next e)
    (hu : environment k.rest e.state = .next u) (sleep : List EnvEvent) :
    updateCall q k sleep s = andThen (tickOrSleep sleep u) fun t => .next (callReport e t) := by
  rw [updateCall, he, andThen_of_next, hu, andThen_of_next]
  rfl

theorem halted_iff (s : State) : s.halted = true ↔ s.sched = .halted := by
  simp [State.halted]

/-- A core is idle when it ran zero units and no halt was signalled (R231, R263). -/
theorem cpuIdle_iff (e : Executed) : e.cpuIdle = true ↔ e.cyclesRun = 0 ∧ e.state.haltReq = false := by
  simp [Executed.cpuIdle]

theorem cpuIdle_of_haltReq {e : Executed} (h : e.state.haltReq = true) : e.cpuIdle = false := by
  rw [Executed.cpuIdle, h]
  exact Bool.and_false _

/-- Where time has not reached the deadline, or the machine does not run, the clock test sleeps (R224, R230). -/
theorem tickOrSleep_of_not_due {vs : List EnvEvent} {s u : State} (hu : environment vs s = .next u)
    (hnot : s.sched = .running → s.now + elapsed vs < s.nextUpdate) (sleep : List EnvEvent) :
    tickOrSleep sleep u = environment (within s.par.tSleep sleep) u := by
  obtain ⟨keys, w, h, rfl⟩ := environment_frame hu
  refine tickOrSleep_sleeps ?_ sleep
  rw [Bool.eq_false_iff, Ne, tickEnabled_iff]
  exact fun ⟨hrun, hdue⟩ => Nat.not_le_of_lt (hnot hrun) hdue

/-- With no tick due after the quantum, the environment alone acts: after its last unit and in the sleep, which is cut
at its bound (R224, R230). -/
theorem updateCall_sleeps {q : Nat} {k : Quantum} {s : State} {e : Executed} (he : execute q k.units s = .next e)
    (hnot : e.state.sched = .running → e.state.now + elapsed k.rest < e.state.nextUpdate) (sleep : List EnvEvent) :
    ∃ keys w h t, t = { e.state with
          now := e.state.now + elapsed k.rest + elapsed (within e.state.par.tSleep sleep)
          keyq := e.state.keyq ++ keys, cw := w, ch := h }
      ∧ environment (k.rest ++ within e.state.par.tSleep sleep) e.state = .next t
      ∧ updateCall q k sleep s = .next (callReport e t) := by
  obtain ⟨keys, w, h, hboth⟩ := environment_next (k.rest ++ within e.state.par.tSleep sleep) e.state
  rw [elapsed_append, ← Nat.add_assoc] at hboth
  refine ⟨keys, w, h, _, rfl, hboth, ?_⟩
  rw [environment_append] at hboth
  obtain ⟨u, hu, hsleep⟩ := andThen_next hboth
  rw [updateCall_eq he hu, tickOrSleep_of_not_due hu hnot, hsleep, andThen_of_next]

/-- The clock test leaves the halt flag: neither a tick body nor the environment requests a halt. -/
theorem tickOrSleep_haltReq {sleep : List EnvEvent} {s t : State} (h : tickOrSleep sleep s = .next t) :
    t.haltReq = s.haltReq := by
  by_cases hon : tickEnabled s = true
  · obtain ⟨hrun, hdue⟩ := (tickEnabled_iff s).mp hon
    rw [tickOrSleep, if_pos hon, execTick_of_enabled hrun hdue] at h
    obtain ⟨-, -, evs, rfl, -⟩ := tickBody_next h
    rfl
  · rw [tickOrSleep, if_neg hon] at h
    exact environment_haltReq h

/-- An `update` call that answers went through a quantum, events of the environment and the clock test. -/
theorem updateCall_next {q : Nat} {k : Quantum} {sleep : List EnvEvent} {s : State} {e : Executed} {r : UpdateReport}
    (he : execute q k.units s = .next e) (h : updateCall q k sleep s = .next r) :
    ∃ u t, environment k.rest e.state = .next u ∧ tickOrSleep sleep u = .next t ∧ r = callReport e t := by
  obtain ⟨keys, w, k', hu⟩ := environment_next k.rest e.state
  rw [updateCall_eq he hu] at h
  obtain ⟨t, ht, h⟩ := andThen_next h
  cases h
  exact ⟨_, t, hu, ht, rfl⟩

/-- The reported outputs in terms of the state that the call leaves, where the halt flag is as after the quantum
(R231). -/
theorem callReport_outputs {e : Executed} {t : State} (hreq : t.haltReq = e.state.haltReq) :
    ((callReport e t).halted = true ↔ t.sched = .halted)
      ∧ ((callReport e t).cpuIdle = true ↔ e.cyclesRun = 0 ∧ t.haltReq = false)
      ∧ ((callReport e t).ran = true ↔ 0 < e.cyclesRun) := by
  rw [hreq]
  exact ⟨halted_iff t, cpuIdle_iff e, decide_eq_true_iff⟩

/-- Settles O59: the clock test leaves the halt flag that the quantum left; an idle call with no tick due sleeps. -/
theorem updateReportsHaltedAndIdleApart : Obligations.UpdateReportsHaltedAndIdleApart := by
  refine ⟨fun s q k sleep e r he hr => ?_, fun s q rest sleep hrun hreq hearly => ?_⟩
  · obtain ⟨u, t, hu, ht, rfl⟩ := updateCall_next he hr
    have hreq : t.haltReq = e.state.haltReq := (tickOrSleep_haltReq ht).trans (environment_haltReq hu)
    obtain ⟨hhalted, hidle, hran⟩ := callReport_outputs hreq
    refine ⟨hhalted, hidle, hran, fun hinv ⟨hon, hidl⟩ => ?_, fun u' t' hu' hrun hdue htick => ?_⟩
    · exact Bool.false_ne_true ((hidle.mp hidl).2.symm.trans (hinv (hhalted.mp hon)))
    · cases hu.symm.trans hu'
      rw [tickOrSleep, if_pos ((tickEnabled_iff u).mpr ⟨hrun, hdue⟩)] at ht
      cases ht.symm.trans htick
      rfl
  · obtain ⟨keys, w, h, t, hframe, henv, hcall⟩ :=
      updateCall_sleeps (k := { units := [], rest := rest }) (execute_nil q s) (fun _ => hearly) sleep
    refine ⟨t, within s.par.tSleep sleep, henv, elapsed_within _ _, within_of_le, by rw [hframe], ?_⟩
    rw [hcall, callReport, hframe, State.halted, hrun, Executed.cpuIdle, hreq]
    rfl

/-- Settles O57: the longer quantum answers the same, and a halted machine has no tick due. -/
theorem haltEndsTheQuantum : Obligations.HaltEndsTheQuantum := by
  intro s e q n units more rest sleep he hhalt
  have hlong := execute_extend he hhalt n more
  obtain ⟨keys, w, h, t, rfl, -, hcall⟩ :=
    updateCall_sleeps (k := { units := units ++ more, rest := rest }) hlong
      (fun hrun => absurd hrun (not_running_of_halted hhalt)) sleep
  exact ⟨hlong, _, keys, hcall, (halted_iff _).mpr hhalt, rfl, cpuIdle_of_haltReq⟩

/-! ### The blocking drive -/

theorem runDrive_not_running {s : State} (h : s.sched ≠ .running) (q : Nat) (rounds : List Quantum) :
    runDrive q rounds s = .next s := by
  cases rounds with
  | nil => rfl
  | cons => exact if_neg h

/-- A round of a running machine (R228, R230). -/
theorem runDrive_round {q : Nat} {k : Quantum} {s u : State} {e : Executed} (hrun : s.sched = .running)
    (he : execute q k.units s = .next e) (hu : environment k.rest e.state = .next u) (rounds : List Quantum) :
    runDrive q (k :: rounds) s
      = andThen (if tickEnabled u = true then execTick u else .next u) (runDrive q rounds) := by
  rw [runDrive, if_pos hrun, he, andThen_of_next, hu, andThen_of_next]

theorem runDrive_round_without_tick {q : Nat} {k : Quantum} {s u : State} {e : Executed} (hrun : s.sched = .running)
    (he : execute q k.units s = .next e) (hu : environment k.rest e.state = .next u)
    (hoff : ¬(u.sched = .running ∧ u.nextUpdate ≤ u.now)) (rounds : List Quantum) :
    runDrive q (k :: rounds) s = runDrive q rounds u := by
  rw [runDrive_round hrun he hu, if_neg ((tickEnabled_iff u).not.mpr hoff), andThen_of_next]

/-- Settles O56: a halted machine runs no unit and has no tick due. -/
theorem drivesStopWhenHalted : Obligations.DrivesStopWhenHalted := by
  intro s q k sleep rounds hhalt
  have hoff := not_running_of_halted hhalt
  obtain ⟨keys, w, h, t, rfl, henv, hcall⟩ :=
    updateCall_sleeps (execute_not_running hoff q k.units) (fun hrun => absurd hrun hoff) sleep
  refine ⟨runDrive_not_running hoff q rounds, within s.par.tSleep sleep, _, keys, ?_, hcall, henv, rfl,
    (halted_iff _).mpr hhalt, rfl, cpuIdle_of_haltReq (e := { state := s, cyclesRun := 0 })⟩
  rw [elapsed_within]
  exact Nat.min_le_right _ _

/-- Settles O60: the round's clock test takes the tick exactly when it is due in Running. -/
theorem runTakesTheTickWhenDue : Obligations.RunTakesTheTickWhenDue := by
  intro s q k rounds e u hrun he hu
  refine ⟨fun t hrun' hdue htick => ?_, fun hearly => ?_, fun hhalt => ?_, fun hidle => ?_⟩
  · rw [runDrive_round hrun he hu, if_pos ((tickEnabled_iff u).mpr ⟨hrun', hdue⟩),
      show execTick u = .next t from htick, andThen_of_next]
  · exact runDrive_round_without_tick hrun he hu (fun h => Nat.not_le_of_lt hearly h.2) rounds
  · have hoff := not_running_of_halted hhalt
    rw [runDrive_round_without_tick hrun he hu (fun h => hoff h.1), runDrive_not_running hoff]
  · rw [hidle, execute_nil] at he
    cases he
    exact environment_frame hu

end Sys2Proof.Machine
end

section
/-! O49, O51, O52 and O53: the auto-start scan, and a `LOAD` whose image lies outside the three ranges. -/

namespace Sys2Proof.Machine

/-! ### The token and the spaces -/

/-- The first token is found where it stands in the window (R251). -/
theorem afterToken_of_first {token : Byte} {front : List Byte} {window : Nat} (hlen : front.length < window)
    (hfront : token ∉ front) (rest : List Byte) : afterToken token window (front ++ token :: rest) = some rest := by
  induction front generalizing window with
  | nil =>
    obtain ⟨n, rfl⟩ := Nat.exists_eq_add_one_of_ne_zero (Nat.ne_zero_of_lt hlen)
    exact if_pos rfl
  | cons b front ih =>
    obtain ⟨n, rfl⟩ := Nat.exists_eq_add_one_of_ne_zero (Nat.ne_zero_of_lt hlen)
    obtain ⟨hb, hothers⟩ := not_or.mp (List.mem_cons.not.mp hfront)
    rw [List.cons_append, afterToken, if_neg (Ne.symm hb)]
    exact ih (Nat.lt_of_succ_lt_succ hlen) hothers

/-- A window without the token gives nothing, whatever stands after it (R251). -/
theorem afterToken_of_not_mem {token : Byte} {bytes : List Byte} {window : Nat} (h : token ∉ bytes.take window) :
    afterToken token window bytes = none := by
  induction bytes generalizing window with
  | nil => cases window <;> rfl
  | cons b bs ih =>
    cases window with
    | zero => rfl
    | succ n =>
      obtain ⟨hb, hothers⟩ := not_or.mp (List.mem_cons.not.mp h)
      rw [afterToken, if_neg (Ne.symm hb)]
      exact ih hothers

/-- All the spaces in front of another byte, or of the end, are skipped (R251). -/
theorem dropWhile_spaces (spaces : Nat) {rest : List Byte} (h : ∀ b bs, rest = b :: bs → b ≠ 0x20) :
    (List.replicate spaces 0x20 ++ rest).dropWhile (fun b : Byte => decide (b = 0x20)) = rest := by
  rw [List.dropWhile_append_of_pos fun b hb => decide_eq_true (List.eq_of_mem_replicate hb)]
  cases rest with
  | nil => rfl
  | cons b bs => exact List.dropWhile_cons_of_neg (by simpa using h b bs rfl)

/-- The scan parses what stands after the first token and the spaces that follow it (R251). -/
theorem scanAutostart_of_first {token : Byte} {front rest : List Byte} (spaces : Nat) (hlen : front.length < 12)
    (hfront : token ∉ front) (hrest : ∀ b bs, rest = b :: bs → b ≠ 0x20) :
    scanAutostart token (front ++ token :: (List.replicate spaces 0x20 ++ rest)) = parseDecimal rest := by
  rw [scanAutostart, afterToken_of_first hlen hfront, Option.bind_some, dropWhile_spaces spaces hrest]

/-! ### The digits -/

theorem isDigit_iff (b : Byte) : isDigit b = true ↔ 0x30 ≤ b.toNat ∧ b.toNat ≤ 0x39 := by
  rw [isDigit, Bool.and_eq_true, decide_eq_true_iff, decide_eq_true_iff]

theorem asciiDigit_toNat (d : Fin 10) : (BitVec.ofNat 8 (0x30 + d.val)).toNat = 0x30 + d.val := by
  rw [BitVec.toNat_ofNat]
  omega

theorem isDigit_asciiDigit (d : Fin 10) : isDigit (BitVec.ofNat 8 (0x30 + d.val)) = true := by
  rw [isDigit_iff, asciiDigit_toNat]
  omega

theorem asciiDigit_ne_space (d : Fin 10) : BitVec.ofNat 8 (0x30 + d.val) ≠ 0x20 := by
  intro h
  have hdigit := isDigit_asciiDigit d
  rw [h] at hdigit
  exact absurd hdigit (by decide)

section Tail

variable {tail : List Byte} (htail : ∀ b bs, tail = b :: bs → ¬(0x30 ≤ b.toNat ∧ b.toNat ≤ 0x39))

include htail

/-- Nothing is parsed where no digit stands first (R252, R253). -/
theorem parseDecimal_eq_none : parseDecimal tail = none := by
  cases tail with
  | nil => rfl
  | cons b bs => exact if_neg ((isDigit_iff b).not.mpr (htail b bs rfl))

/-- A run that starts at no digit is empty (R252). -/
theorem digitRun_of_no_digit (acc : Nat) : digitRun acc tail = acc := by
  cases tail with
  | nil => rfl
  | cons b bs => exact if_neg ((isDigit_iff b).not.mpr (htail b bs rfl))

/-- A run of digits behind those already in `acc` has their value, the most significant first (R252). -/
theorem digitRun_digits (acc : Nat) (digits : List (Fin 10)) :
    digitRun acc (digits.map (fun d => BitVec.ofNat 8 (0x30 + d.val)) ++ tail)
      = acc * 10 ^ digits.length + Nat.ofDigits 10 (digits.map Fin.val).reverse := by
  induction digits generalizing acc with
  | nil => simpa using digitRun_of_no_digit htail acc
  | cons d ds ih =>
    rw [List.map_cons, List.cons_append, digitRun, if_pos (isDigit_asciiDigit d), ih, asciiDigit_toNat,
      Nat.add_sub_cancel_left, List.map_cons, Nat.ofDigits_reverse_cons, List.length_map, List.length_cons]
    ring

/-- A non-empty run of digits is parsed to its value (R252). -/
theorem parseDecimal_digits {digits : List (Fin 10)} (hdigits : digits ≠ []) :
    parseDecimal (digits.map (fun d => BitVec.ofNat 8 (0x30 + d.val)) ++ tail)
      = some (Nat.ofDigits 10 (digits.map Fin.val).reverse) := by
  have hrun := digitRun_digits htail 0 digits
  rw [Nat.zero_mul, Nat.zero_add] at hrun
  rw [← hrun]
  cases digits with
  | nil => exact absurd rfl hdigits
  | cons d ds => exact if_pos (isDigit_asciiDigit d)

end Tail

/-- Settles O52: the scan reaches the digits, the first of which is no space, and their run ends at the tail. -/
theorem scanReadsTheDecimalAfterTheToken : Obligations.ScanReadsTheDecimalAfterTheToken := by
  intro token front spaces digits tail hlen hfront hdigits htail
  rw [scanAutostart_of_first spaces hlen hfront, parseDecimal_digits htail hdigits]
  intro b bs hb
  cases digits with
  | nil => exact absurd rfl hdigits
  | cons d ds => exact (List.cons.inj hb).1 ▸ asciiDigit_ne_space d

/-- Settles O53: no token in the window, or nothing to parse after it. -/
theorem scanWithoutTokenOrDigitsFindsNothing : Obligations.ScanWithoutTokenOrDigitsFindsNothing := by
  refine fun token => ⟨fun bytes hwindow => ?_, fun front spaces tail hlen hfront htail => ?_⟩
  · rw [scanAutostart, afterToken_of_not_mem hwindow, Option.bind_none]
  · rw [scanAutostart_of_first spaces hlen hfront fun b bs hb => (htail b bs hb).1,
      parseDecimal_eq_none fun b bs hb => (htail b bs hb).2]

/-! ### An image outside the ranges -/

/-- A byte of the image outside the ranges goes to plain memory, and the others go on from there (R250). -/
theorem loadBytes_cons_of_none {s : State} {a : Nat} {b : Byte} {bs : List Byte} (ha : a < 65536)
    (h : decodeAddr s.map (BitVec.ofNat 16 a) = .none) :
    loadBytes a (b :: bs) s = loadBytes (a + 1) bs { s with mem := s.mem.write a b } := by
  have hwrite := busAccess_of_plainWrite (w := busWord true (BitVec.ofNat 16 a) b)
    (by rwa [addr_busWord]) (isWrite_busWord _ _ _)
  have haddr : (BitVec.ofNat 16 a).toNat = a := Nat.mod_eq_of_lt ha
  rw [loadBytes, hwrite, andThen_of_next, addr_busWord, data_busWord, plainWrite, haddr]

/-- An image outside the ranges is copied into plain memory, and nothing else changes. A byte in plain memory leaves
the map, so the later ones stay outside. -/
theorem loadBytes_of_none {bs : List Byte} {a : Nat} {s : State} (hfit : a + bs.length ≤ 65536)
    (h : ∀ k, k < bs.length → decodeAddr s.map (BitVec.ofNat 16 (a + k)) = .none) :
    ∃ m, loadBytes a bs s = .next { s with mem := m }
      ∧ (∀ k, k < bs.length → some (m.read (a + k)) = bs[k]?)
      ∧ ∀ c, c < a ∨ a + bs.length ≤ c → m.read c = s.mem.read c := by
  induction bs generalizing a s with
  | nil => exact ⟨s.mem, rfl, nofun, fun _ _ => rfl⟩
  | cons b bs ih =>
    rw [List.length_cons] at hfit h ⊢
    have hfirst : decodeAddr s.map (BitVec.ofNat 16 a) = .none := h 0 (Nat.succ_pos _)
    have hlater : ∀ k, k < bs.length → decodeAddr s.map (BitVec.ofNat 16 (a + 1 + k)) = .none := fun k hk => by
      rw [Nat.add_assoc, Nat.add_comm 1]
      exact h (k + 1) (Nat.succ_lt_succ hk)
    obtain ⟨m, hrun, himage, hframe⟩ := ih (s := { s with mem := s.mem.write a b }) (by omega) hlater
    refine ⟨m, ?_, fun k hk => ?_, fun c hc => ?_⟩
    · rw [loadBytes_cons_of_none (by omega) hfirst]
      exact hrun
    · cases k with
      | zero => rw [Nat.add_zero, hframe a (.inl (Nat.lt_succ_self a)), read_write_same, List.getElem?_cons_zero]
      | succ k =>
        rw [List.getElem?_cons_succ, ← himage k (Nat.lt_of_succ_lt_succ hk), Nat.add_assoc, Nat.add_comm 1]
    · rw [hframe c (by omega), read_write_other _ (by omega)]

/-- Settles O49: the copy, then the cache. -/
theorem loadCopiesTheImage : Obligations.LoadCopiesTheImage := by
  intro s addr bytes hfit hnone hn
  obtain ⟨m, hrun, himage, hframe⟩ := loadBytes_of_none hfit hnone
  refine ⟨m, ?_, himage, hframe⟩
  rw [execLoad_of_fits hfit, hrun, andThen_of_next]
  by_cases haddr : addr = s.par.basicLoadAddr
  · rw [if_pos haddr]
    exact cacheAutostart_canonical (s := { s with mem := m }) haddr hn
  · rw [if_neg haddr]
    exact cacheAutostart_elsewhere (s := { s with mem := m }) haddr bytes

/-! ### The refusals of `LOAD` -/

/-- At the canonical address a number that is no 16-bit address is refused (R252, R284). -/
theorem cacheAutostart_refused {addr : Word16} {bytes : List Byte} {s : State} {n : Nat}
    (haddr : addr = s.par.basicLoadAddr) (hscan : scanAutostart s.par.autostartToken bytes = some n)
    (hn : 65535 < n) : cacheAutostart addr bytes s = .refused .autostartRange := by
  unfold cacheAutostart
  rw [if_pos haddr, hscan]
  exact if_neg (Nat.not_le_of_lt hn)

/-- Settles O51: an image that does not fit is refused at once, a number out of range after the copy. -/
theorem loadRefusals : Obligations.LoadRefusals := by
  refine fun s addr bytes => ⟨fun hwraps => if_neg (Nat.not_le_of_lt hwraps), fun hfit haddr hnone hscan => ?_⟩
  obtain ⟨n, hscan, hn⟩ := hscan
  obtain ⟨m, hrun, -⟩ := loadBytes_of_none hfit hnone
  rw [execLoad_of_fits hfit, hrun, andThen_of_next]
  exact cacheAutostart_refused (s := { s with mem := m }) haddr hscan hn

end Sys2Proof.Machine
end

section
/-! O55: `RESET` answers, or is refused, by the console's size and the parameters' map alone. -/

namespace Sys2Proof.Machine

/-- The map of the reset registers (R26, R45): the free window position, drawn on a small console, is no part of
it. -/
theorem mapOf_resetRegs (p : Params) (w h n : Nat) :
    mapOf p (resetRegs p w h n)
      = { regPage := p.regPage, palOff := p.palOff, textPtr := p.textPtrReset, colorPtr := p.colorPtrReset
          size := 1024 } := by
  rw [mapOf, ramSize_resetRegs]
  rfl

/-- The console's size is tested first, and refused outside 1..255 by 1..255 (R310). -/
theorem execReset_of_bad_dims {w h : Nat} (s : State) (hdim : ¬(dimOk w = true ∧ dimOk h = true)) :
    execReset w h s = .refused .consoleDims := if_neg hdim

/-- On a good console an invalid map of the reset registers is refused (R310). -/
theorem execReset_of_invalid {w h : Nat} {s : State} (hdim : dimOk w = true ∧ dimOk h = true)
    (hv : ¬(mapOf s.par (resetRegs s.par w h s.freeCtr)).valid = true) :
    execReset w h s = .refused .resetMapInvalid := by
  rw [execReset, if_pos hdim, if_neg hv]

/-- On a good console a valid map of the reset registers whose ranges overlap is refused (R158, R310). -/
theorem execReset_of_overlap {w h : Nat} {s : State} (hdim : dimOk w = true ∧ dimOk h = true)
    (hv : (mapOf s.par (resetRegs s.par w h s.freeCtr)).valid = true)
    (hd : ¬(mapOf s.par (resetRegs s.par w h s.freeCtr)).disjoint = true) :
    execReset w h s = .refused .overlappingRanges := by
  rw [execReset, if_pos hdim, if_pos hv, if_neg hd]

/-- Settles O55: the map that `RESET` tests is the statement's, and each outcome is one branch of its tests. -/
theorem resetCompletesOrIsRefused : Obligations.ResetCompletesOrIsRefused := by
  intro s w h m hm
  have hmap : mapOf s.par (resetRegs s.par w h s.freeCtr) = m := (mapOf_resetRegs s.par w h s.freeCtr).trans hm.symm
  have hdims : (dimOk w = true ∧ dimOk h = true) ↔ 1 ≤ w ∧ w ≤ 255 ∧ 1 ≤ h ∧ h ≤ 255 := by
    rw [dimOk_iff, dimOk_iff, and_assoc]
  rw [← hdims, ← hmap]
  refine ⟨execReset_of_bad_dims s, fun hdim => ⟨fun hv => ?_, fun hv hd => ?_, fun hv hd => ?_⟩⟩
  · exact execReset_of_invalid hdim (Bool.not_eq_true _ ▸ hv)
  · exact execReset_of_overlap hdim hv (Bool.not_eq_true _ ▸ hd)
  · exact ⟨resetState w h s, execReset_of_ok hdim.1 hdim.2 hv hd, rfl, rfl, rfl⟩

end Sys2Proof.Machine
end
